-- ==== Sys2Proof/Word.lean ====
section
/-! DEFINITION. The widths of the core's values (R6, R24, R56): words, bytes, addresses, register indices. -/

namespace Sys2Proof

/-- An 8-bit value: a V register, a timer, a memory byte, the field `kk` (R6, R56). -/
abbrev Byte := BitVec 8

/-- A 16-bit value: the instruction word, I, a stack slot (R6, R55). -/
abbrev Word := BitVec 16

/-- A 12-bit value: an address of the 4096-byte memory, pc, the field `nnn` (R24, R41, R56). -/
abbrev Addr := BitVec 12

/-- A 4-bit field of the instruction word: a register index `x` or `y`, the row count `n` (R56). -/
abbrev Nibble := BitVec 4

end Sys2Proof
end

