-- ==== Sys2Proof/Syntax.lean ====
section
/-! DEFINITION. The instructions: one constructor for each of the 34 rows of the table and one for its fallback row.
A field is named as in R56. -/

namespace Sys2Proof

/-- One instruction of the table (R59). Every operand is an unsigned field of the word, at the field's width (R57). -/
inductive Instr where
  /-- 00E0, CLS (R85). -/
  | cls
  /-- 00EE, RET (R90). -/
  | ret
  /-- 1nnn, JP nnn (R91). -/
  | jp (nnn : Addr)
  /-- 2nnn, CALL nnn (R92). -/
  | call (nnn : Addr)
  /-- 3xkk, SE Vx, kk (R96). -/
  | seImm (x : Nibble) (kk : Byte)
  /-- 4xkk, SNE Vx, kk (R97). -/
  | sneImm (x : Nibble) (kk : Byte)
  /-- 5xy0, SE Vx, Vy (R98). -/
  | seReg (x y : Nibble)
  /-- 6xkk, LD Vx, kk (R100). -/
  | ldImm (x : Nibble) (kk : Byte)
  /-- 7xkk, ADD Vx, kk (R101). -/
  | addImm (x : Nibble) (kk : Byte)
  /-- 8xy0, LD Vx, Vy (R102). -/
  | ldReg (x y : Nibble)
  /-- 8xy1, OR Vx, Vy (R103). -/
  | orReg (x y : Nibble)
  /-- 8xy2, AND Vx, Vy (R104). -/
  | andReg (x y : Nibble)
  /-- 8xy3, XOR Vx, Vy (R105). -/
  | xorReg (x y : Nibble)
  /-- 8xy4, ADD Vx, Vy (R106). -/
  | addReg (x y : Nibble)
  /-- 8xy5, SUB Vx, Vy (R107). -/
  | sub (x y : Nibble)
  /-- 8xy6, SHR Vx (R108). The field y is decoded and has no effect (R61). -/
  | shr (x y : Nibble)
  /-- 8xy7, SUBN Vx, Vy (R109). -/
  | subn (x y : Nibble)
  /-- 8xyE, SHL Vx (R110). The field y is decoded and has no effect (R61). -/
  | shl (x y : Nibble)
  /-- 9xy0, SNE Vx, Vy (R99). -/
  | sneReg (x y : Nibble)
  /-- Annn, LD I, nnn (R115). -/
  | ldI (nnn : Addr)
  /-- Bnnn, JP V0, nnn (R93). -/
  | jpV0 (nnn : Addr)
  /-- Cxkk, RND Vx, kk (R111). -/
  | rnd (x : Nibble) (kk : Byte)
  /-- Dxyn, DRW Vx, Vy, n (R86). -/
  | drw (x y n : Nibble)
  /-- Ex9E, SKP Vx (R122). -/
  | skp (x : Nibble)
  /-- ExA1, SKNP Vx (R123). -/
  | sknp (x : Nibble)
  /-- Fx07, LD Vx, DT (R124). -/
  | ldVxDT (x : Nibble)
  /-- Fx0A, LD Vx, K (R125). -/
  | ldVxK (x : Nibble)
  /-- Fx15, LD DT, Vx (R126). -/
  | ldDTVx (x : Nibble)
  /-- Fx18, LD ST, Vx (R127). -/
  | ldSTVx (x : Nibble)
  /-- Fx1E, ADD I, Vx (R116). -/
  | addI (x : Nibble)
  /-- Fx29, LD F, Vx (R117). -/
  | ldF (x : Nibble)
  /-- Fx33, LD B, Vx (R118). -/
  | ldB (x : Nibble)
  /-- Fx55, LD [I], Vx (R119). -/
  | ldMemVx (x : Nibble)
  /-- Fx65, LD Vx, [I] (R120). -/
  | ldVxMem (x : Nibble)
  /-- The fallback row: a word that matches no row above, a no-op (R65). -/
  | unknown (w : Word)
  deriving DecidableEq, Repr

end Sys2Proof
end

