-- ==== Sys2Proof/WellFormed.lean ====
section
/-! DEFINITION. The opcode table's masks and patterns (R58), and which instructions are well formed. -/

namespace Sys2Proof

/-- A row of the opcode table: the bits it fixes and their values (R58). -/
structure OpRow where
  mask : Word
  pattern : Word
  deriving DecidableEq, Repr

/-- "(w AND mask) = match" (R58). -/
def OpRow.Matches (r : OpRow) (w : Word) : Bool := w &&& r.mask == r.pattern

/-- The rows of classes 0x0 to 0x7 (R59). -/
def opcodeRowsLow : List OpRow :=
  [⟨0xFFFF, 0x00E0⟩, ⟨0xFFFF, 0x00EE⟩, ⟨0xF000, 0x1000⟩, ⟨0xF000, 0x2000⟩, ⟨0xF000, 0x3000⟩,
   ⟨0xF000, 0x4000⟩, ⟨0xF00F, 0x5000⟩, ⟨0xF000, 0x6000⟩, ⟨0xF000, 0x7000⟩]

/-- The rows of class 0x8 (R61). -/
def opcodeRows8 : List OpRow :=
  [⟨0xF00F, 0x8000⟩, ⟨0xF00F, 0x8001⟩, ⟨0xF00F, 0x8002⟩, ⟨0xF00F, 0x8003⟩, ⟨0xF00F, 0x8004⟩,
   ⟨0xF00F, 0x8005⟩, ⟨0xF00F, 0x8006⟩, ⟨0xF00F, 0x8007⟩, ⟨0xF00F, 0x800E⟩]

/-- The rows of classes 0x9 to 0xE (R59, R62). -/
def opcodeRowsHigh : List OpRow :=
  [⟨0xF00F, 0x9000⟩, ⟨0xF000, 0xA000⟩, ⟨0xF000, 0xB000⟩, ⟨0xF000, 0xC000⟩, ⟨0xF000, 0xD000⟩,
   ⟨0xF0FF, 0xE09E⟩, ⟨0xF0FF, 0xE0A1⟩]

/-- The rows of class 0xF (R63). -/
def opcodeRowsF : List OpRow :=
  [⟨0xF0FF, 0xF007⟩, ⟨0xF0FF, 0xF00A⟩, ⟨0xF0FF, 0xF015⟩, ⟨0xF0FF, 0xF018⟩, ⟨0xF0FF, 0xF01E⟩,
   ⟨0xF0FF, 0xF029⟩, ⟨0xF0FF, 0xF033⟩, ⟨0xF0FF, 0xF055⟩, ⟨0xF0FF, 0xF065⟩]

/-- The 34 rows of the opcode table, without the fallback. -/
def opcodeRows : List OpRow := opcodeRowsLow ++ (opcodeRows8 ++ (opcodeRowsHigh ++ opcodeRowsF))

/-- The row an instruction belongs to; the fallback `unknown` belongs to none. -/
def Instr.row : Instr → Option OpRow
  | .cls => some ⟨0xFFFF, 0x00E0⟩
  | .ret => some ⟨0xFFFF, 0x00EE⟩
  | .jp _ => some ⟨0xF000, 0x1000⟩
  | .call _ => some ⟨0xF000, 0x2000⟩
  | .seImm _ _ => some ⟨0xF000, 0x3000⟩
  | .sneImm _ _ => some ⟨0xF000, 0x4000⟩
  | .seReg _ _ => some ⟨0xF00F, 0x5000⟩
  | .ldImm _ _ => some ⟨0xF000, 0x6000⟩
  | .addImm _ _ => some ⟨0xF000, 0x7000⟩
  | .ldReg _ _ => some ⟨0xF00F, 0x8000⟩
  | .orReg _ _ => some ⟨0xF00F, 0x8001⟩
  | .andReg _ _ => some ⟨0xF00F, 0x8002⟩
  | .xorReg _ _ => some ⟨0xF00F, 0x8003⟩
  | .addReg _ _ => some ⟨0xF00F, 0x8004⟩
  | .sub _ _ => some ⟨0xF00F, 0x8005⟩
  | .shr _ _ => some ⟨0xF00F, 0x8006⟩
  | .subn _ _ => some ⟨0xF00F, 0x8007⟩
  | .shl _ _ => some ⟨0xF00F, 0x800E⟩
  | .sneReg _ _ => some ⟨0xF00F, 0x9000⟩
  | .ldI _ => some ⟨0xF000, 0xA000⟩
  | .jpV0 _ => some ⟨0xF000, 0xB000⟩
  | .rnd _ _ => some ⟨0xF000, 0xC000⟩
  | .drw _ _ _ => some ⟨0xF000, 0xD000⟩
  | .skp _ => some ⟨0xF0FF, 0xE09E⟩
  | .sknp _ => some ⟨0xF0FF, 0xE0A1⟩
  | .ldVxDT _ => some ⟨0xF0FF, 0xF007⟩
  | .ldVxK _ => some ⟨0xF0FF, 0xF00A⟩
  | .ldDTVx _ => some ⟨0xF0FF, 0xF015⟩
  | .ldSTVx _ => some ⟨0xF0FF, 0xF018⟩
  | .addI _ => some ⟨0xF0FF, 0xF01E⟩
  | .ldF _ => some ⟨0xF0FF, 0xF029⟩
  | .ldB _ => some ⟨0xF0FF, 0xF033⟩
  | .ldMemVx _ => some ⟨0xF0FF, 0xF055⟩
  | .ldVxMem _ => some ⟨0xF0FF, 0xF065⟩
  | .unknown _ => none

/-- Every operand of the 34 instructions is in range by its type. Only the fallback carries a check:
its word matches no row of the table (R65). -/
def Instr.wellFormed : Instr → Bool
  | .unknown w => !opcodeRows.any (fun r => r.Matches w)
  | _ => true

end Sys2Proof
end

