-- ==== Sys2Proof/Decode.lean ====
section
/-! DEFINITION. The decoder (R55-R66), total on every word and on every list of bytes, and after it the encoder. -/

namespace Sys2Proof

/-- Why bytes give no instruction. Every 16-bit word is an instruction or an unknown encoding (R66),
so the only reason is that a byte of the word is missing. -/
inductive DecodeError where
  /-- Fewer than the two bytes every instruction has (R55). -/
  | truncated
  deriving DecidableEq, Repr

/-- The field op, bits 15..12, the class of the word (R56, R59). -/
def fieldOp (w : Word) : Nibble := w.extractLsb' 12 4

/-- The field x, bits 11..8 (R56). -/
def fieldX (w : Word) : Nibble := w.extractLsb' 8 4

/-- The field y, bits 7..4 (R56). -/
def fieldY (w : Word) : Nibble := w.extractLsb' 4 4

/-- The field n, bits 3..0 (R56). -/
def fieldN (w : Word) : Nibble := w.extractLsb' 0 4

/-- The field kk, bits 7..0 (R56). -/
def fieldKK (w : Word) : Byte := w.extractLsb' 0 8

/-- The field nnn, bits 11..0 (R56). -/
def fieldNNN (w : Word) : Addr := w.extractLsb' 0 12

/-- Class 0x0: only the full words 00E0 and 00EE are instructions (R60). -/
def decodeClass0 (w : Word) : Instr :=
  if w = 0x00E0#16 then .cls else if w = 0x00EE#16 then .ret else .unknown w

/-- Classes 0x5 and 0x9: the low nibble must be 0 (R64). -/
def decodeLowNibble0 (w : Word) (i : Instr) : Instr :=
  if fieldN w = 0#4 then i else .unknown w

/-- Class 0x8: the low nibble selects the operation (R61). -/
def decodeClass8 (w : Word) : Instr :=
  match (fieldN w).toNat with
  | 0x0 => .ldReg (fieldX w) (fieldY w)
  | 0x1 => .orReg (fieldX w) (fieldY w)
  | 0x2 => .andReg (fieldX w) (fieldY w)
  | 0x3 => .xorReg (fieldX w) (fieldY w)
  | 0x4 => .addReg (fieldX w) (fieldY w)
  | 0x5 => .sub (fieldX w) (fieldY w)
  | 0x6 => .shr (fieldX w) (fieldY w)
  | 0x7 => .subn (fieldX w) (fieldY w)
  | 0xE => .shl (fieldX w) (fieldY w)
  | _ => .unknown w

/-- Class 0xE: the low byte selects (R62). -/
def decodeClassE (w : Word) : Instr :=
  if fieldKK w = 0x9E#8 then .skp (fieldX w)
  else if fieldKK w = 0xA1#8 then .sknp (fieldX w)
  else .unknown w

/-- Class 0xF: the low byte selects (R63). -/
def decodeClassF (w : Word) : Instr :=
  if fieldKK w = 0x07#8 then .ldVxDT (fieldX w)
  else if fieldKK w = 0x0A#8 then .ldVxK (fieldX w)
  else if fieldKK w = 0x15#8 then .ldDTVx (fieldX w)
  else if fieldKK w = 0x18#8 then .ldSTVx (fieldX w)
  else if fieldKK w = 0x1E#8 then .addI (fieldX w)
  else if fieldKK w = 0x29#8 then .ldF (fieldX w)
  else if fieldKK w = 0x33#8 then .ldB (fieldX w)
  else if fieldKK w = 0x55#8 then .ldMemVx (fieldX w)
  else if fieldKK w = 0x65#8 then .ldVxMem (fieldX w)
  else .unknown w

/-- The opcode map of R59: the class is the first nibble. -/
def decodeWord (w : Word) : Instr :=
  match (fieldOp w).toNat with
  | 0x0 => decodeClass0 w
  | 0x1 => .jp (fieldNNN w)
  | 0x2 => .call (fieldNNN w)
  | 0x3 => .seImm (fieldX w) (fieldKK w)
  | 0x4 => .sneImm (fieldX w) (fieldKK w)
  | 0x5 => decodeLowNibble0 w (.seReg (fieldX w) (fieldY w))
  | 0x6 => .ldImm (fieldX w) (fieldKK w)
  | 0x7 => .addImm (fieldX w) (fieldKK w)
  | 0x8 => decodeClass8 w
  | 0x9 => decodeLowNibble0 w (.sneReg (fieldX w) (fieldY w))
  | 0xA => .ldI (fieldNNN w)
  | 0xB => .jpV0 (fieldNNN w)
  | 0xC => .rnd (fieldX w) (fieldKK w)
  | 0xD => .drw (fieldX w) (fieldY w) (fieldN w)
  | 0xE => decodeClassE w
  | _ => decodeClassF w

/-- The word of two bytes as they lie in memory: big-endian, high byte first (R46, R47). -/
def wordOfBytes (hi lo : Byte) : Word := hi ++ lo

/-- The two bytes of a word in the order they lie in memory: high byte first (R46). -/
def bytesOfWord (w : Word) : List Byte := [w.extractLsb' 8 8, w.extractLsb' 0 8]

/-- Decodes the first instruction of a list of bytes and gives the bytes after it (R55). -/
def decodeBytes : List Byte → Except DecodeError (Instr × List Byte)
  | hi :: lo :: rest => .ok (decodeWord (wordOfBytes hi lo), rest)
  | _ => .error .truncated

/-- The host's question: what the decoder reads from an instruction whose bits are w, of which the table
gives nbits; every bit above nbits is 0. -/
def decodeTableWord (nbits w : Nat) : Option Instr :=
  match decodeBytes (bytesOfWord (BitVec.ofNat 16 (w % 2 ^ nbits))) with
  | .ok (i, _) => some i
  | .error _ => none

/-- The word op : x : y : n (R9, R56). -/
def joinXYN (op x y n : Nibble) : Word := op ++ x ++ y ++ n

/-- The word op : x : kk (R9, R56). -/
def joinXKK (op x : Nibble) (kk : Byte) : Word := op ++ x ++ kk

/-- The word op : nnn (R9, R56). -/
def joinNNN (op : Nibble) (nnn : Addr) : Word := op ++ nnn

/-- The word of an instruction, from the encoding its rule gives. -/
def encode : Instr → Word
  | .cls => 0x00E0#16
  | .ret => 0x00EE#16
  | .jp nnn => joinNNN 0x1 nnn
  | .call nnn => joinNNN 0x2 nnn
  | .seImm x kk => joinXKK 0x3 x kk
  | .sneImm x kk => joinXKK 0x4 x kk
  | .seReg x y => joinXYN 0x5 x y 0x0
  | .ldImm x kk => joinXKK 0x6 x kk
  | .addImm x kk => joinXKK 0x7 x kk
  | .ldReg x y => joinXYN 0x8 x y 0x0
  | .orReg x y => joinXYN 0x8 x y 0x1
  | .andReg x y => joinXYN 0x8 x y 0x2
  | .xorReg x y => joinXYN 0x8 x y 0x3
  | .addReg x y => joinXYN 0x8 x y 0x4
  | .sub x y => joinXYN 0x8 x y 0x5
  | .shr x y => joinXYN 0x8 x y 0x6
  | .subn x y => joinXYN 0x8 x y 0x7
  | .shl x y => joinXYN 0x8 x y 0xE
  | .sneReg x y => joinXYN 0x9 x y 0x0
  | .ldI nnn => joinNNN 0xA nnn
  | .jpV0 nnn => joinNNN 0xB nnn
  | .rnd x kk => joinXKK 0xC x kk
  | .drw x y n => joinXYN 0xD x y n
  | .skp x => joinXKK 0xE x 0x9E
  | .sknp x => joinXKK 0xE x 0xA1
  | .ldVxDT x => joinXKK 0xF x 0x07
  | .ldVxK x => joinXKK 0xF x 0x0A
  | .ldDTVx x => joinXKK 0xF x 0x15
  | .ldSTVx x => joinXKK 0xF x 0x18
  | .addI x => joinXKK 0xF x 0x1E
  | .ldF x => joinXKK 0xF x 0x29
  | .ldB x => joinXKK 0xF x 0x33
  | .ldMemVx x => joinXKK 0xF x 0x55
  | .ldVxMem x => joinXKK 0xF x 0x65
  | .unknown w => w

/-- The bytes of an instruction in the order they lie in memory (R46, R55). -/
def encodeBytes (i : Instr) : List Byte := bytesOfWord (encode i)

end Sys2Proof
end

