-- ==== Sys2Proof/Config.lean ====
section
/-! DEFINITION. What the spec leaves open (R7): the two construction parameters and the two inputs of a step.
Each is a constant without a body, so a claim that holds of the model holds for every value of it. -/

namespace Sys2Proof

/-- GLYPHS (R7, R42, D12): the byte at address a of the glyph region 0x000..0x04F after construction.
The spec gives no bytes. Free value, safe: log entry 1. -/
opaque Config.glyphs : Nat → Byte

/-- MEM_INIT (R7, R34, R44, D11): the byte at address a of 0x050..0xFFF after construction and before a load.
Free value, safe: log entry 1. -/
opaque Config.memInit : Nat → Byte

/-- The byte that address a (below 4096) holds after construction (R34). -/
def Config.initialByte (a : Nat) : Byte :=
  if a < 0x050 then Config.glyphs a else Config.memInit a

/-- The key sample the host drives in activation number n, where the state's own script gives none (R70, R142).
Free value, safe: log entry 3. -/
opaque Config.freeKeySample : Nat → Vector Bool 16

/-- The random byte driven in activation number n, where the state's own script gives none (R70, R144, D8).
Free value under no law, safe: log entries 3 and 4. -/
opaque Config.freeRandByte : Nat → Byte

end Sys2Proof
end

