-- ==== Sys2Proof/Machine/State.lean ====
section
/-! DEFINITION. The Machine State (R20), the ports of `step` (R70), and the state after construction (R36). -/

namespace Sys2Proof.Machine

/-- Why a step would stop with `Outcome.fault`. There is no such reason: the spec's error conditions have an entry
of their own (R131), a next state whose register `fault` holds a `FaultCode`, and nothing else stops the core (R130). -/
inductive Fault
  deriving DecidableEq, Repr

/-- Why a step or a host move has no meaning. -/
inductive Refusal where
  /-- An instruction without a meaning yet, by its mnemonic. No arm of `exec` raises it. Safe: the run stops. -/
  | notModelled (mnemonic : String)
  /-- A program load after the first step: the spec gives the host no such move (R155, D14).
  Raised by `loadImage` alone, never by a step. Safe: the move is not made. -/
  | loadAfterFirstStep
  deriving DecidableEq, Repr

/-- The values of the fault register and of the port `fault_out` (R33, R129). -/
inductive FaultCode where
  /-- 0, NONE: no fault. -/
  | none
  /-- 1, STACK_OVERFLOW: raised by 2nnn with sp = 16. -/
  | stackOverflow
  /-- 2, STACK_UNDERFLOW: raised by 00EE with sp = 0. -/
  | stackUnderflow
  /-- 3, KEY_INDEX_OUT_OF_RANGE: raised by Ex9E and ExA1 with V[x] > 15. -/
  | keyIndexOutOfRange
  /-- 4, ADDRESS_OUT_OF_RANGE: reserved, never raised. -/
  | addressOutOfRange
  deriving DecidableEq, Repr

/-- The execution mode (R31): Running, or WaitingForKey with the register that receives the key. -/
inductive Mode where
  | running
  | waitingForKey (target : Nibble)
  deriving DecidableEq, Repr

/-- Memory: the bytes written since construction, as (address, byte) pairs in the canonical form `Memory.wf`
(Machine/Ops.lean). An address not listed holds the open parameter `Config.initialByte` (R34): log entries 1 and 2. -/
abbrev Memory := List Host.Cell

/-- The frame buffer, 32 rows of 64 one-bit pixels (R29). -/
abbrev FrameBuffer := Vector (Vector Bool 64) 32

/-- What the host drives at the input ports in one activation (R70). -/
structure StepInput where
  keys : Vector Bool 16
  rand : Byte
  deriving DecidableEq, Repr

/-- The state. The first thirteen fields are the Machine State of R20; then the four ports of R70 as of the last
activation; then three fields of the model's own (log entries 3 and 5). -/
structure State where
  /-- V[0..15] (R21). -/
  V : Vector Byte 16
  /-- The address register (R23). -/
  I : Word
  /-- The program counter (R24). -/
  pc : Addr
  /-- The return stack's 16 slots (R25). -/
  stack : Vector Word 16
  /-- The index of the next free slot, 0..16 (R26). -/
  sp : Fin 17
  /-- The delay timer (R27). -/
  DT : Byte
  /-- The sound timer (R28). -/
  ST : Byte
  /-- The frame buffer (R29). -/
  fb : FrameBuffer
  /-- The sampled keys (R30). -/
  keyState : Vector Bool 16
  /-- The execution mode (R31). -/
  mode : Mode
  /-- Set by 00E0 and Dxyn, cleared at the start of every cycle (R32). -/
  redrawPending : Bool
  /-- The fault register (R33). -/
  fault : FaultCode
  /-- The 4096 bytes of memory (R34). -/
  memory : Memory
  /-- The input port `key_sample` (R70). -/
  keySample : Vector Bool 16
  /-- The input port `rand_byte` (R70). -/
  randByte : Byte
  /-- The output port `redraw` (R70). -/
  redrawOut : Bool
  /-- The output port `fault_out` (R70). -/
  faultOut : FaultCode
  /-- The model's own: what the host will drive in the coming activations, oldest first; free values after the last. -/
  inputs : List StepInput
  /-- The model's own: the number of activations so far, the index of the free input values. -/
  activations : Nat
  /-- The model's own: an activation has happened since construction, so load is over (R155). -/
  started : Bool
  deriving DecidableEq, Repr

/-- The state after construction (R36, R150): memory lists nothing, so it reads GLYPHS and MEM_INIT everywhere.
The ports and the model's own fields have no reset value in the spec: DESIGN CHOICE, log entry 6. -/
def State.reset : State where
  V := Vector.replicate 16 0#8
  I := 0#16
  pc := 0x200#12
  stack := Vector.replicate 16 0#16
  sp := 0
  DT := 0#8
  ST := 0#8
  fb := Vector.replicate 32 (Vector.replicate 64 false)
  keyState := Vector.replicate 16 false
  mode := .running
  redrawPending := false
  fault := .none
  memory := []
  keySample := Vector.replicate 16 false
  randByte := 0#8
  redrawOut := false
  faultOut := .none
  inputs := []
  activations := 0
  started := false

end Sys2Proof.Machine
end

