-- ==== Sys2Proof/Machine/Ops.lean ====
section
/-! DEFINITION. The named operations over memory, registers, stack, screen, keys and timers; the fault entry;
and the cycle engine that `step` is made of. -/

namespace Sys2Proof.Machine

/-- What an instruction, a cycle or a host move answers. -/
abbrev Result := Host.Outcome State Fault Refusal

/-! ### Reductions (R10) -/

/-- `wrap8(v) = v mod 256`. -/
def wrap8 (n : Nat) : Byte := BitVec.ofNat 8 n

/-- `wrap12(v) = v mod 4096`. -/
def wrap12 (n : Nat) : Addr := BitVec.ofNat 12 n

/-- `wrap16(v) = v mod 65536`. -/
def wrap16 (n : Nat) : Word := BitVec.ofNat 16 n

/-! ### Memory (R34, R40-R50) -/

/-- The byte a memory lists for an address; none where nothing has been written since construction. -/
def Memory.get : Memory → Nat → Option Byte
  | [], _ => none
  | (k, b) :: m, a => if a = k then some b else Memory.get m a

/-- The memory with one byte written. It keeps the canonical form. -/
def Memory.put : Memory → Nat → Byte → Memory
  | [], a, b => [(a, b)]
  | (k, c) :: m, a, b =>
    if a < k then (a, b) :: (k, c) :: m
    else if a = k then (a, b) :: m
    else (k, c) :: Memory.put m a b

/-- The canonical form: addresses strictly rising, all in the address space 0x000..0xFFF (R40). A listed byte is
never what `Memory.get` gives for an unlisted address, which is no byte at all: log entry 2. -/
abbrev Memory.wf (m : Memory) : Prop :=
  m.Pairwise (fun c d => c.1 < d.1) ∧ ∀ c ∈ m, c.1 < 4096

/-- `MemRead(a, 1)`: the byte at address `wrap12(a)` (R12, R41); never a fault (R130). -/
def State.readByte (s : State) (a : Nat) : Byte :=
  (Memory.get s.memory (wrap12 a).toNat).getD (Config.initialByte (wrap12 a).toNat)

/-- `MemWrite(a, 1, v)`: stores a byte at address `wrap12(a)` (R12, R41); nothing is protected (R43). -/
def State.writeByte (s : State) (a : Nat) (b : Byte) : State :=
  { s with memory := Memory.put s.memory (wrap12 a).toNat b }

/-- The n bytes at a, a + 1, ..., in address order (R49, R51). -/
def State.readBytes (s : State) (a : Nat) : Nat → List Byte
  | 0 => []
  | n + 1 => s.readByte a :: State.readBytes s (a + 1) n

/-- Stores the bytes at a, a + 1, ..., in address order (R49, R51). -/
def State.writeBytes (s : State) (a : Nat) : List Byte → State
  | [] => s
  | b :: bs => State.writeBytes (s.writeByte a b) (a + 1) bs

/-! ### Registers (R11, R21-R28) -/

/-- `V[x]`. -/
def State.reg (s : State) (x : Nibble) : Byte := s.V[x.toNat]'(x.isLt)

/-- `V[x] <- b`. -/
def State.setReg (s : State) (x : Nibble) (b : Byte) : State :=
  { s with V := s.V.set x.toNat b x.isLt }

/-- `I <- v` (R23). -/
def State.setI (s : State) (v : Word) : State := { s with I := v }

/-- `pc <- target` (R11, R24). -/
def State.setPc (s : State) (a : Addr) : State := { s with pc := a }

/-- `DT <- v` (R27). -/
def State.setDT (s : State) (v : Byte) : State := { s with DT := v }

/-- `ST <- v` (R28). -/
def State.setST (s : State) (v : Byte) : State := { s with ST := v }

/-- `mode <- m` (R31). -/
def State.setMode (s : State) (m : Mode) : State := { s with mode := m }

/-- `pc <- wrap12(pc + 2)`: the advance of an instruction that does not set pc (R77). -/
def State.advance (s : State) : State := s.setPc (wrap12 (s.pc.toNat + 2))

/-- The skip mechanism (R95): pc + 4 where the condition holds, else pc + 2. -/
def State.skipIf (s : State) (cond : Bool) : State :=
  s.setPc (if cond then wrap12 (s.pc.toNat + 4) else wrap12 (s.pc.toNat + 2))

/-- V[0]..V[x] in order, the bytes Fx55 stores (R119). -/
def State.regsUpTo (s : State) (x : Nibble) : List Byte := s.V.toList.take (x.toNat + 1)

/-- `V[j] <- MemRead(base + j, 1)` for j = 0..x, the others unchanged (R120). -/
def State.loadRegs (s : State) (base : Nat) (x : Nibble) : State :=
  { s with V := Vector.ofFn fun j : Fin 16 => if j.val ≤ x.toNat then s.readByte (base + j.val) else s.V[j] }

/-! ### Taking a fault (R13, R129-R134) -/

/-- The fault entry's writes: `redraw_pending <- false` and `fault <- code` (R131). No register saves anything, no
handler address is loaded and there is no return (R131, R134). -/
def State.raiseFault (s : State) (code : FaultCode) : State :=
  { s with redrawPending := false, fault := code }

/-! ### The return stack (R25, R26, R90, R92) -/

/-- The slot `stack[j]`. -/
def State.slot (s : State) (j : Fin 16) : Word := s.stack[j.val]

/-- Pushes a return address and enters at the target, or raises STACK_OVERFLOW with all 16 slots in use (R92). -/
def State.pushAndGo (s : State) (ret target : Addr) : State :=
  if h : s.sp.val < 16 then
    { s with
      stack := s.stack.set s.sp.val (ret.setWidth 16) h
      sp := ⟨s.sp.val + 1, by omega⟩
      pc := target }
  else s.raiseFault .stackOverflow

/-- Pops a return address into pc and leaves its slot as it is, or raises STACK_UNDERFLOW with no slot in use (R90). -/
def State.popAndGo (s : State) : State :=
  if h : s.sp.val = 0 then s.raiseFault .stackUnderflow
  else
    { s with
      sp := ⟨s.sp.val - 1, by omega⟩
      pc := wrap12 (s.stack[s.sp.val - 1]'(by omega)).toNat }

/-! ### The frame buffer (R29, R85, R86, R89) -/

/-- The pixel at row r mod 32, column c mod 64 (R89). -/
def FrameBuffer.pixel (fb : FrameBuffer) (r c : Nat) : Bool :=
  (fb[r % 32]'(Nat.mod_lt _ (by decide)))[c % 64]'(Nat.mod_lt _ (by decide))

/-- XORs 1 into the pixel at row r mod 32, column c mod 64. -/
def FrameBuffer.flip (fb : FrameBuffer) (r c : Nat) : FrameBuffer :=
  fb.set (r % 32)
    ((fb[r % 32]'(Nat.mod_lt _ (by decide))).set (c % 64) (!(FrameBuffer.pixel fb r c)) (Nat.mod_lt _ (by decide)))
    (Nat.mod_lt _ (by decide))

/-- The clear screen (R85). -/
def FrameBuffer.clear : FrameBuffer := Vector.replicate 32 (Vector.replicate 64 false)

/-- One bit of a sprite at row r, column c: a 0 bit changes nothing; a 1 bit XORs the pixel and notes a collision
where the pixel was 1 (R86). -/
def drawBit (bit : Bool) (r c : Nat) (p : FrameBuffer × Bool) : FrameBuffer × Bool :=
  if bit then (FrameBuffer.flip p.1 r c, p.2 || FrameBuffer.pixel p.1 r c) else p

/-- One byte of a sprite on row r from column vx on, the most significant bit first (R86). -/
def drawRow (b : Byte) (r vx : Nat) (p : FrameBuffer × Bool) : FrameBuffer × Bool :=
  (List.range 8).foldl (fun q bit => drawBit (b.getLsbD (7 - bit)) r (vx + bit) q) p

/-- The bytes of a sprite, one a row, from row vy on (R86); the second component is the collision so far. -/
def drawSprite : List Byte → Nat → Nat → FrameBuffer × Bool → FrameBuffer × Bool
  | [], _, _, p => p
  | b :: bs, vy, vx, p => drawSprite bs (vy + 1) vx (drawRow b vy vx p)

/-- `fb <- f` and `redraw_pending <- true` (R82). -/
def State.setScreen (s : State) (f : FrameBuffer) : State := { s with fb := f, redrawPending := true }

/-! ### Keys (R30, R72, R74) -/

/-- The least k in 0..15 whose key is held, scanning in ascending order (R74). -/
def leastHeld (keys : Vector Bool 16) : Option Nat := (List.range 16).find? fun k => keys.toList.getD k false

/-- Step 3, the key wait (R74): the least held key goes to V[t] and the mode to Running; with no key held, nothing. -/
def State.resolveWait (s : State) (t : Nibble) : State :=
  match leastHeld s.keyState with
  | some k => (s.setReg t (wrap8 k)).setMode .running
  | none => s

/-! ### The cycle engine (R70-R82) -/

/-- The input of the next activation: the head of the host's script, or free values where it has ended (log entry 3). -/
def State.nextInput (s : State) : StepInput :=
  match s.inputs with
  | i :: _ => i
  | [] => ⟨Config.freeKeySample s.activations, Config.freeRandByte s.activations⟩

/-- The host activates `step`: its input stands at the ports (R70). No element of the Machine State changes. -/
def State.activate (s : State) : State :=
  { s with
    keySample := s.nextInput.keys
    randByte := s.nextInput.rand
    inputs := s.inputs.tail
    activations := s.activations + 1
    started := true }

/-- Step 1: `key_state <- key_sample` (R72). -/
def State.sampleKeys (s : State) : State := { s with keyState := s.keySample }

/-- Step 2: `redraw_pending <- false` (R73). -/
def State.clearRedraw (s : State) : State := { s with redrawPending := false }

/-- The tick of one timer: down by one, staying at 0 (R139). -/
def tick (v : Byte) : Byte := if v.toNat = 0 then 0#8 else wrap8 (v.toNat - 1)

/-- The timer tick of a Running cycle (R75, R139). -/
def State.tickTimers (s : State) : State := { s with DT := tick s.DT, ST := tick s.ST }

/-- The instruction word at pc, big-endian, its second byte at wrap12(pc + 1) (R47). -/
def State.fetchWord (s : State) : Word :=
  wordOfBytes (s.readByte s.pc.toNat) (s.readByte (s.pc.toNat + 1))

/-- The state an instruction executes on: keys sampled, redraw cleared, timers ticked (R71, R75). -/
def State.prepare (s : State) : State := s.sampleKeys.clearRedraw.tickTimers

/-- The cycle returns (redraw, fault): the output ports (R70, R78). -/
def State.giveBack (s : State) (redraw : Bool) : State :=
  { s with redrawOut := redraw, faultOut := s.fault }

/-- The end of a Running cycle that began in s0 and executed its instruction to s1: s1 where no fault was raised; else
the fault entry, on the state before the cycle (R71, R131). -/
def State.commit (s0 s1 : State) : State :=
  if s1.fault = .none then s1.giveBack s1.redrawPending
  else (s0.raiseFault s1.fault).giveBack false

/-- The algorithm of R71 for the input now at the ports, with the meaning of instructions as an argument. -/
def cycle (run : Instr → State → Result) (s : State) : Result :=
  if s.fault ≠ .none then .next (s.giveBack false)
  else
    match s.mode with
    | .waitingForKey t =>
      .next ((s.sampleKeys.clearRedraw.resolveWait t).giveBack false)
    | .running =>
      match run (decodeWord s.prepare.fetchWord) s.prepare with
      | .next s1 => .next (s.commit s1)
      | .fault f => .fault f
      | .refused r => .refused r

/-- The state with a word stored where the next cycle fetches, in a state in which the next cycle does fetch: Running
and not faulted (R71). Stands for a program load of the host's: log entry 7. -/
def State.placeWord (s : State) (w : Word) : State :=
  { (s.writeBytes s.pc.toNat (bytesOfWord w)) with mode := .running, fault := .none }

end Sys2Proof.Machine
end

