-- ==== Sys2Proof/Machine/Flags.lean ====
section
/-! DEFINITION. VF as flag register (R22): each flag is computed from the latched operands and is 0 or 1. -/

namespace Sys2Proof.Machine

/-- The register V[0xF] (R22). -/
def VF : Nibble := 0xF#4

/-- A flag as VF holds it: 1 or 0. -/
def flagByte (f : Bool) : Byte := if f then 1#8 else 0#8

/-- The carry of 8xy4: the unsigned sum exceeds 255 (R106). -/
def carryFlag (a b : Byte) : Bool := decide (a.toNat + b.toNat > 255)

/-- The flag of 8xy5 and 8xy7: a strictly greater than b, unsigned (R107, R109). -/
def greaterFlag (a b : Byte) : Bool := decide (a.toNat > b.toNat)

/-- The bit 8xy6 shifts out: bit 0 (R108). -/
def lowBit (a : Byte) : Bool := a.getLsbD 0

/-- The bit 8xyE shifts out: bit 7 (R110). -/
def highBit (a : Byte) : Bool := a.getLsbD 7

/-- `V[0xF] <- flag; V[x] <- v`, in this order: with x = 0xF the value wins (R113). -/
def State.setFlagThenReg (s : State) (x : Nibble) (flag : Bool) (v : Byte) : State :=
  (s.setReg VF (flagByte flag)).setReg x v

end Sys2Proof.Machine
end

