-- ==== Sys2Proof/Machine/Operands.lean ====
section
/-! DEFINITION. The operand forms (R57, R121, R122): effective addresses, the key index, the glyph address, the BCD digits. -/

namespace Sys2Proof.Machine

/-- The effective address of the byte at offset k from I: `wrap12(I + k)` (R41, R121). -/
def State.effAddr (s : State) (k : Nat) : Addr := wrap12 (s.I.toNat + k)

/-- The sprite of Dxyn: n bytes from I on (R86). -/
def State.sprite (s : State) (n : Nibble) : List Byte := s.readBytes s.I.toNat n.toNat

/-- Whether V[x] is a key index, 0..15 (R122). -/
def State.keyIndexValid (s : State) (x : Nibble) : Bool := decide ((s.reg x).toNat ≤ 15)

/-- `key_state[V[x]]` for a valid key index (R122). -/
def State.keyHeld (s : State) (x : Nibble) : Bool := s.keyState.toList.getD (s.reg x).toNat false

/-- The address of the glyph for V[x], not masked: V[x] * 5 (R117). -/
def State.glyphAddr (s : State) (x : Nibble) : Word := wrap16 ((s.reg x).toNat * 5)

/-- The hundreds, tens and ones digit of a byte (R118). -/
def bcd (v : Byte) : List Byte := [wrap8 (v.toNat / 100), wrap8 (v.toNat / 10 % 10), wrap8 (v.toNat % 10)]

end Sys2Proof.Machine
end

