-- ==== Sys2Proof/Machine/Alu.lean ====
section
/-! DEFINITION. The register loads and the ALU instructions 6xkk, 7xkk, 8xy0-8xyE, Cxkk (44_alu.md).
Every operand is read from the state the instruction begins in (R14). -/

namespace Sys2Proof.Machine

/-- 6xkk (R100). -/
def execLdImm (x : Nibble) (kk : Byte) (s : State) : Result := .next (s.setReg x kk).advance

/-- 7xkk (R101): no flag. -/
def execAddImm (x : Nibble) (kk : Byte) (s : State) : Result :=
  .next (s.setReg x (wrap8 ((s.reg x).toNat + kk.toNat))).advance

/-- 8xy0 (R102). -/
def execLdReg (x y : Nibble) (s : State) : Result := .next (s.setReg x (s.reg y)).advance

/-- 8xy1 (R103): VF is not reset. -/
def execOrReg (x y : Nibble) (s : State) : Result := .next (s.setReg x (s.reg x ||| s.reg y)).advance

/-- 8xy2 (R104): VF is not reset. -/
def execAndReg (x y : Nibble) (s : State) : Result := .next (s.setReg x (s.reg x &&& s.reg y)).advance

/-- 8xy3 (R105): VF is not reset. -/
def execXorReg (x y : Nibble) (s : State) : Result := .next (s.setReg x (s.reg x ^^^ s.reg y)).advance

/-- 8xy4 (R106). -/
def execAddReg (x y : Nibble) (s : State) : Result :=
  let a := s.reg x
  let b := s.reg y
  .next (s.setFlagThenReg x (carryFlag a b) (wrap8 (a.toNat + b.toNat))).advance

/-- 8xy5 (R107). -/
def execSub (x y : Nibble) (s : State) : Result :=
  let a := s.reg x
  let b := s.reg y
  .next (s.setFlagThenReg x (greaterFlag a b) (wrap8 (a.toNat + 256 - b.toNat))).advance

/-- 8xy6 (R108): shifts Vx, y has no effect. -/
def execShr (x : Nibble) (s : State) : Result :=
  let a := s.reg x
  .next (s.setFlagThenReg x (lowBit a) (wrap8 (a.toNat / 2))).advance

/-- 8xy7 (R109). -/
def execSubn (x y : Nibble) (s : State) : Result :=
  let a := s.reg x
  let b := s.reg y
  .next (s.setFlagThenReg x (greaterFlag b a) (wrap8 (b.toNat + 256 - a.toNat))).advance

/-- 8xyE (R110): shifts Vx, y has no effect. -/
def execShl (x : Nibble) (s : State) : Result :=
  let a := s.reg x
  .next (s.setFlagThenReg x (highBit a) (wrap8 (a.toNat * 2))).advance

/-- Cxkk (R111): the random byte is this activation's input `rand_byte` (R70, D8). -/
def execRnd (x : Nibble) (kk : Byte) (s : State) : Result := .next (s.setReg x (s.randByte &&& kk)).advance

end Sys2Proof.Machine
end

