-- ==== Sys2Proof/Machine/Control.lean ====
section
/-! DEFINITION. The control transfers 00EE, 1nnn, 2nnn, Bnnn (42_control.md) and the no-op of an unknown encoding (R65). -/

namespace Sys2Proof.Machine

/-- 00EE (R90). -/
def execRet (s : State) : Result := .next s.popAndGo

/-- 1nnn (R91). -/
def execJp (nnn : Addr) (s : State) : Result := .next (s.setPc nnn)

/-- 2nnn (R92): the return address is `wrap12(pc + 2)`. -/
def execCall (nnn : Addr) (s : State) : Result := .next (s.pushAndGo (wrap12 (s.pc.toNat + 2)) nnn)

/-- Bnnn (R93): the offset register is always V0. -/
def execJpV0 (nnn : Addr) (s : State) : Result := .next (s.setPc (wrap12 (nnn.toNat + (s.reg 0#4).toNat)))

/-- A word that matches no row (R65): only pc moves. -/
def execUnknown (s : State) : Result := .next s.advance

end Sys2Proof.Machine
end

