-- ==== Sys2Proof/Machine/Display.lean ====
section
/-! DEFINITION. The display instructions 00E0 and Dxyn (41_display.md). -/

namespace Sys2Proof.Machine

/-- 00E0 (R85). -/
def execCls (s : State) : Result := .next (s.setScreen FrameBuffer.clear).advance

/-- Dxyn (R86): V[x], V[y] and I are latched, VF is written after all pixels. -/
def execDrw (x y n : Nibble) (s : State) : Result :=
  let drawn := drawSprite (s.sprite n) (s.reg y).toNat (s.reg x).toNat (s.fb, false)
  .next ((s.setScreen drawn.1).setReg VF (flagByte drawn.2)).advance

end Sys2Proof.Machine
end

