-- ==== Sys2Proof/Machine/Index.lean ====
section
/-! DEFINITION. The index-register and memory instructions Annn, Fx1E, Fx29, Fx33, Fx55, Fx65 (45_index_memory.md). -/

namespace Sys2Proof.Machine

/-- Annn (R115): `I <- zext_16(nnn)`. -/
def execLdI (nnn : Addr) (s : State) : Result := .next (s.setI (nnn.setWidth 16)).advance

/-- Fx1E (R116): a 16-bit add, no flag. -/
def execAddI (x : Nibble) (s : State) : Result := .next (s.setI (wrap16 (s.I.toNat + (s.reg x).toNat))).advance

/-- Fx29 (R117). -/
def execLdF (x : Nibble) (s : State) : Result := .next (s.setI (s.glyphAddr x)).advance

/-- Fx33 (R118): hundreds, tens, ones at I, I + 1, I + 2; I is unchanged. -/
def execLdB (x : Nibble) (s : State) : Result := .next (s.writeBytes s.I.toNat (bcd (s.reg x))).advance

/-- Fx55 (R119): V[0]..V[x] at I, I + 1, ...; I is unchanged. -/
def execLdMemVx (x : Nibble) (s : State) : Result := .next (s.writeBytes s.I.toNat (s.regsUpTo x)).advance

/-- Fx65 (R120): V[0]..V[x] from I, I + 1, ...; I is unchanged. -/
def execLdVxMem (x : Nibble) (s : State) : Result := .next (s.loadRegs s.I.toNat x).advance

end Sys2Proof.Machine
end

