-- ==== Sys2Proof/Machine/Keys.lean ====
section
/-! DEFINITION. The key and timer instructions Ex9E, ExA1, Fx07, Fx0A, Fx15, Fx18 (46_keys_timers.md). -/

namespace Sys2Proof.Machine

/-- Ex9E (R122): KEY_INDEX_OUT_OF_RANGE with V[x] > 15. -/
def execSkp (x : Nibble) (s : State) : Result :=
  .next (if s.keyIndexValid x then s.skipIf (s.keyHeld x) else s.raiseFault .keyIndexOutOfRange)

/-- ExA1 (R123): KEY_INDEX_OUT_OF_RANGE with V[x] > 15. -/
def execSknp (x : Nibble) (s : State) : Result :=
  .next (if s.keyIndexValid x then s.skipIf (!s.keyHeld x) else s.raiseFault .keyIndexOutOfRange)

/-- Fx07 (R124): DT as this cycle's tick left it. -/
def execLdVxDT (x : Nibble) (s : State) : Result := .next (s.setReg x s.DT).advance

/-- Fx0A (R125): enters the key wait; the register is written when the wait resolves (R74). -/
def execLdVxK (x : Nibble) (s : State) : Result := .next (s.setMode (.waitingForKey x)).advance

/-- Fx15 (R126). -/
def execLdDTVx (x : Nibble) (s : State) : Result := .next (s.setDT (s.reg x)).advance

/-- Fx18 (R127). -/
def execLdSTVx (x : Nibble) (s : State) : Result := .next (s.setST (s.reg x)).advance

end Sys2Proof.Machine
end

