-- ==== Sys2Proof/Machine/Skip.lean ====
section
/-! DEFINITION. The register skips 3xkk, 4xkk, 5xy0, 9xy0 (43_skip.md). -/

namespace Sys2Proof.Machine

/-- 3xkk (R96). -/
def execSeImm (x : Nibble) (kk : Byte) (s : State) : Result := .next (s.skipIf (s.reg x == kk))

/-- 4xkk (R97). -/
def execSneImm (x : Nibble) (kk : Byte) (s : State) : Result := .next (s.skipIf (s.reg x != kk))

/-- 5xy0 (R98). -/
def execSeReg (x y : Nibble) (s : State) : Result := .next (s.skipIf (s.reg x == s.reg y))

/-- 9xy0 (R99). -/
def execSneReg (x y : Nibble) (s : State) : Result := .next (s.skipIf (s.reg x != s.reg y))

end Sys2Proof.Machine
end

