-- ==== Sys2Proof/Machine/Step.lean ====
section
/-! DEFINITION. One activation of `step` (R70, R71), and the host's placing of an instruction where it fetches. -/

namespace Sys2Proof.Machine

/-- One activation: the host's input stands at the ports, and one cycle runs (R71). -/
def step (s : State) : Host.Outcome State Fault Refusal := cycle exec s.activate

/-- The state with the instruction of bits w, of which the table gives nbits, where step fetches next. -/
def State.withFetchWord (s : State) (nbits w : Nat) : State :=
  s.placeWord (BitVec.ofNat 16 (w % 2 ^ nbits))

end Sys2Proof.Machine
end

