-- ==== Sys2Proof/Machine/HostMoves.lean ====
section
/-! DEFINITION. What the host can do to the core (R149): construct or reset, load, step. Reading the state needs no move. -/

namespace Sys2Proof.Machine

/-- Reset (R151): exactly construct, with the same GLYPHS and MEM_INIT. What the host will drive later and the index of
the free input values belong to the host and are kept (log entry 6). -/
def State.hostReset (s : State) : State :=
  { State.reset with inputs := s.inputs, activations := s.activations }

/-- The most bytes a load copies: 4096 - 0x200 (R153). -/
def loadLimit : Nat := 3584

/-- Load (R153-R155): copies the image to 0x200 on, cut off at the end of memory; only before the first step. -/
def loadImage (image : List Byte) (s : State) : Result :=
  if s.started then .refused .loadAfterFirstStep
  else .next (s.writeBytes 0x200 (image.take loadLimit))

/-- The result `truncated` of load (R153, R154). -/
def truncated (image : List Byte) : Bool := decide (image.length > loadLimit)

/-- A move of the host (R149). -/
inductive HostMove where
  | reset
  | load (image : List Byte)
  | step (input : StepInput)
  deriving DecidableEq, Repr

/-- The state after a move of the host's. -/
def hostMove (m : HostMove) (s : State) : Result :=
  match m with
  | .reset => .next s.hostReset
  | .load image => loadImage image s
  | .step input => Sys2Proof.Machine.step { s with inputs := input :: s.inputs }

end Sys2Proof.Machine
end

