-- ==== Sys2Proof/Safety.lean ====
section
/-! DEFINITION. The terms claims are stated in: the decoded instruction of a cycle, frames, the invariant, equality of
Machine States, the self-loop of R164, sprite pixels. -/

namespace Sys2Proof.Machine

/-- The core is Running and not faulted, so the next step executes an instruction (R71, R137). -/
def State.Executes (s : State) : Prop := s.fault = .none ∧ s.mode = .running

/-- The instruction the next step executes, if it executes one (R76). -/
def State.nextInstr (s : State) : Instr := decodeWord s.fetchWord

/-- What an instruction may change besides pc; everything else is in its frame. -/
structure Changes where
  /-- The V registers it may write. -/
  regs : List Nibble := []
  /-- The addresses of the bytes it stores. -/
  stored : List Addr := []
  I : Bool := false
  stack : Bool := false
  DT : Bool := false
  ST : Bool := false
  screen : Bool := false
  mode : Bool := false

/-- From s to t nothing has changed but pc and what c names. Memory is compared byte by byte. -/
def Frame (c : Changes) (s t : State) : Prop :=
  (∀ r, r ∉ c.regs → t.reg r = s.reg r) ∧
  (∀ a : Nat, wrap12 a ∉ c.stored → t.readByte a = s.readByte a) ∧
  (c.I = false → t.I = s.I) ∧
  (c.stack = false → t.stack = s.stack ∧ t.sp = s.sp) ∧
  (c.DT = false → t.DT = s.DT) ∧
  (c.ST = false → t.ST = s.ST) ∧
  (c.screen = false → t.fb = s.fb ∧ t.redrawPending = s.redrawPending) ∧
  (c.mode = false → t.mode = s.mode) ∧
  t.keyState = s.keyState ∧ t.fault = s.fault ∧
  t.keySample = s.keySample ∧ t.randByte = s.randByte ∧ t.redrawOut = s.redrawOut ∧ t.faultOut = s.faultOut ∧
  t.inputs = s.inputs ∧ t.activations = s.activations ∧ t.started = s.started

/-- s and t have the same Machine State: the thirteen elements of R20. -/
def SameMachineState (s t : State) : Prop :=
  t.V = s.V ∧ t.I = s.I ∧ t.pc = s.pc ∧ t.stack = s.stack ∧ t.sp = s.sp ∧ t.DT = s.DT ∧ t.ST = s.ST ∧
  t.fb = s.fb ∧ t.keyState = s.keyState ∧ t.mode = s.mode ∧ t.redrawPending = s.redrawPending ∧
  t.fault = s.fault ∧ t.memory = s.memory

/-- The invariant of the reachable states (R38, R165) as far as the types do not say it already (pc is 12 bits, sp is
0..16, a pixel is one bit, the wait target is 4 bits): memory is canonical and within the address space, every stack slot
is below 4096, a faulted core has redraw_pending false and never the reserved code, and the output ports show
redraw_pending and fault. -/
def State.Inv (s : State) : Prop :=
  Memory.wf s.memory ∧
  (∀ j : Fin 16, (s.slot j).toNat < 4096) ∧
  (s.fault ≠ .none → s.redrawPending = false) ∧
  s.fault ≠ .addressOutOfRange ∧
  s.redrawOut = s.redrawPending ∧ s.faultOut = s.fault

/-- The next pc of the table of R77, for an instruction that raises no fault in s. -/
def nextPc (i : Instr) (s : State) : Addr :=
  let next := wrap12 (s.pc.toNat + 2)
  let skip (cond : Bool) := if cond then wrap12 (s.pc.toNat + 4) else next
  match i with
  | .ret => wrap12 (s.stack.toList.getD (s.sp.val - 1) 0#16).toNat
  | .jp nnn => nnn
  | .call nnn => nnn
  | .jpV0 nnn => wrap12 (nnn.toNat + (s.reg 0#4).toNat)
  | .seImm x kk => skip (s.reg x == kk)
  | .sneImm x kk => skip (s.reg x != kk)
  | .seReg x y => skip (s.reg x == s.reg y)
  | .sneReg x y => skip (s.reg x != s.reg y)
  | .skp x => skip (s.keyState.toList.getD (s.reg x).toNat false)
  | .sknp x => skip (!s.keyState.toList.getD (s.reg x).toNat false)
  | _ => next

/-- The fault an instruction raises in s (R129): three conditions and no other. -/
def faultOf (i : Instr) (s : State) : FaultCode :=
  match i with
  | .call _ => if s.sp.val = 16 then .stackOverflow else .none
  | .ret => if s.sp.val = 0 then .stackUnderflow else .none
  | .skp x => if (s.reg x).toNat > 15 then .keyIndexOutOfRange else .none
  | .sknp x => if (s.reg x).toNat > 15 then .keyIndexOutOfRange else .none
  | _ => .none

/-- Outcome (b) of R164: Running, not faulted, and the word at pc jumps to itself. -/
def State.SelfLoop (s : State) : Prop := s.Executes ∧ s.nextInstr = .jp s.pc

/-- Whether the sprite of the given bytes, drawn from row vy and column vx, has a 1 bit at pixel (r, c): on the row
(r - vy) mod 32 of the sprite and at the bit (c - vx) mod 64 of that byte, the most significant first (R86, R89). -/
def spriteCovers (bytes : List Byte) (vy vx r c : Nat) : Bool :=
  let row := (r + 32 - vy % 32) % 32
  let bit := (c + 64 - vx % 64) % 64
  decide (bit < 8) && (bytes.getD row 0#8).getLsbD (7 - bit)

/-- No key is held in the sample. -/
def noKey (keys : Vector Bool 16) : Prop := ∀ k : Fin 16, keys[k] = false

/-- k is the least key held in the sample (R74). -/
def IsLeastHeld (keys : Vector Bool 16) (k : Fin 16) : Prop :=
  keys[k] = true ∧ ∀ j : Fin 16, j < k → keys[j] = false

end Sys2Proof.Machine
end

