-- ==== Sys2Proof/Certificates/Slice0/Obligations.lean ====
section
/-! DEFINITION. The statements for the provers. Each docstring names the rule of spec/ it formalises; where a clause rests on
a decision the spec marks as its own (D<n> of 92_eei_decisions.md) or on a choice of the model, it says so. -/

open Sys2Proof Sys2Proof.Machine

/-! ### Encoding -/

/-- R71, R76: a step of a Running, unfaulted core whose two bytes at pc decode to a well-formed instruction i is `exec i` on
the prepared state (the host's input at the ports, keys sampled, redraw cleared, timers ticked), followed by the commit of the
cycle. That the commit makes a fault entry on the state before the cycle is the spec's decision D5 (R131, log entries 10 and
11). That the host's input stands at ports held in the state is the model's choice (log entries 3 and 8). -/
def Obligations.StepRunsDecodedInstruction : Prop := ∀ (s : State) (i : Instr), s.fault = .none → s.mode = .running →
  i.wellFormed = true → decodeBytes [s.readByte s.pc.toNat, s.readByte (s.pc.toNat + 1)] = .ok (i, []) →
  step s = match exec i s.activate.sampleKeys.clearRedraw.tickTimers with
    | .next t => .next (s.activate.commit t)
    | .fault f => .fault f
    | .refused r => .refused r

/-- R59 to R65: words of the spec's own examples and vectors, each the instruction the spec says it is. -/
def Obligations.SpecWordsDecode : Prop :=
  decodeWord 0x00E0 = .cls ∧ decodeWord 0x00EE = .ret ∧ decodeWord 0x1208 = .jp 0x208 ∧
  decodeWord 0x3F05 = .seImm 0xF 0x05 ∧ decodeWord 0x8015 = .sub 0 1 ∧ decodeWord 0x82F6 = .shr 2 0xF ∧
  decodeWord 0xC30F = .rnd 3 0x0F ∧ decodeWord 0xD011 = .drw 0 1 1 ∧ decodeWord 0xF429 = .ldF 4 ∧
  decodeWord 0xE5A1 = .sknp 5 ∧ decodeWord 0xF30A = .ldVxK 3 ∧
  decodeWord 0x01E0 = .unknown 0x01E0 ∧ decodeWord 0x5121 = .unknown 0x5121 ∧ decodeWord 0x8128 = .unknown 0x8128 ∧
  decodeWord 0xE19F = .unknown 0xE19F ∧ decodeWord 0xF1FF = .unknown 0xF1FF

/-- R55 to R64: the bytes of every well-formed instruction, whatever bytes follow, decode to that instruction with every
operand, and the bytes that follow are left over. That the fallback keeps its word and the shifts their ignored field y is the
model's choice (log entry 9). The literal digits of the patterns are the spec's decision D10. -/
def Obligations.EncodeThenDecode : Prop := ∀ (i : Instr) (rest : List Byte), i.wellFormed = true →
  decodeBytes (encodeBytes i ++ rest) = .ok (i, rest)

/-- R66: every one of the 65536 words decodes, here to a well-formed instruction. That the instruction's word is the word
decoded, for unknown words and for the ignored field y of 8xy6 and 8xyE too, is the model's choice of what its constructors
carry (log entry 9), and no rule of the spec says it. -/
def Obligations.DecodeThenEncode : Prop := ∀ w : Word,
  (decodeWord w).wellFormed = true ∧ encode (decodeWord w) = w

/-- R58 (which follows decision D10 for the literal digits): a word decodes to an instruction of a row exactly when
(w AND mask) = match for that row; it is an unknown encoding exactly when it matches no row; and no word matches two rows. -/
def Obligations.MaskAndMatchSelectTheRow : Prop := ∀ w : Word,
  (∀ r ∈ opcodeRows, r.Matches w = true ↔ (decodeWord w).row = some r) ∧
  ((decodeWord w).row = none ↔ ∀ r ∈ opcodeRows, r.Matches w = false) ∧
  (∀ r ∈ opcodeRows, ∀ q ∈ opcodeRows, r.Matches w = true → q.Matches w = true → r = q)

/-- R59 to R64 (D10 for classes 0x0, 0x5 and 0x9): class by class, the words that are unknown encodings. -/
def Obligations.UnknownWordsByClass : Prop := ∀ w : Word, decodeWord w = .unknown w ↔
  (fieldOp w = 0x0 ∧ w ≠ 0x00E0 ∧ w ≠ 0x00EE) ∨
  ((fieldOp w = 0x5 ∨ fieldOp w = 0x9) ∧ fieldN w ≠ 0) ∨
  (fieldOp w = 0x8 ∧ fieldN w ∈ [0x8, 0x9, 0xA, 0xB, 0xC, 0xD, 0xF]) ∨
  (fieldOp w = 0xE ∧ fieldKK w ∉ [0x9E, 0xA1]) ∨
  (fieldOp w = 0xF ∧ fieldKK w ∉ [0x07, 0x0A, 0x15, 0x18, 0x1E, 0x29, 0x33, 0x55, 0x65])

/-! ### Display -/

/-- R85: 00E0 clears every pixel and sets redraw_pending, and changes nothing else but pc. -/
def Obligations.ClearScreen : Prop := decodeWord 0x00E0 = .cls ∧ ∀ s : State,
  ∃ t, exec .cls s = .next t ∧ (∀ r < 32, ∀ c < 64, FrameBuffer.pixel t.fb r c = false) ∧ t.redrawPending = true ∧
    t.pc = wrap12 (s.pc.toNat + 2) ∧ Frame { screen := true } s t

/-- R86, R89 (D9 for the latched operands, D18 for n = 0): Dxyn XORs into each of the 64 x 32 pixels the sprite bit that lands
on it, coordinates wrapping one pixel at a time; VF is 1 exactly when a 1 bit lands on a pixel that was 1, else 0;
redraw_pending is set; nothing else changes but pc. -/
def Obligations.DrawSpriteXorsPixels : Prop := ∀ (x y n : Nibble) (s : State),
  decodeWord (joinXYN 0xD x y n) = .drw x y n ∧
  ∃ t, exec (.drw x y n) s = .next t ∧
    (∀ r < 32, ∀ c < 64, FrameBuffer.pixel t.fb r c = (FrameBuffer.pixel s.fb r c ^^
      spriteCovers (s.readBytes s.I.toNat n.toNat) (s.reg y).toNat (s.reg x).toNat r c)) ∧
    (t.reg VF = 0 ∨ t.reg VF = 1) ∧
    (t.reg VF = 1 ↔ ∃ row < n.toNat, ∃ bit < 8, (s.readByte (s.I.toNat + row)).getLsbD (7 - bit) = true ∧
      FrameBuffer.pixel s.fb ((s.reg y).toNat + row) ((s.reg x).toNat + bit) = true) ∧
    t.redrawPending = true ∧ t.pc = wrap12 (s.pc.toNat + 2) ∧ Frame { regs := [VF], screen := true } s t

/-- R87, which the spec derives from R86 (D9 for the latched operands): two equal draws with x and y not 0xF, and with V[x],
V[y], I, the sprite bytes and the frame buffer unchanged in between, restore the frame buffer, and the second VF is 1 exactly
when a 1 bit of the sprite falls on a pixel that was 0 before the first draw. -/
def Obligations.DoubleDrawRestoresScreen : Prop := ∀ (x y n : Nibble) (s : State), x ≠ VF → y ≠ VF →
  ∃ t, exec (.drw x y n) s = .next t ∧ ∀ t' : State,
    t'.fb = t.fb → t'.reg x = t.reg x → t'.reg y = t.reg y → t'.I = t.I →
    (∀ row < n.toNat, t'.readByte (t'.I.toNat + row) = t.readByte (t.I.toNat + row)) →
    ∃ u, exec (.drw x y n) t' = .next u ∧ u.fb = s.fb ∧
      (u.reg VF = 1 ↔ ∃ row < n.toNat, ∃ bit < 8, (s.readByte (s.I.toNat + row)).getLsbD (7 - bit) = true ∧
        FrameBuffer.pixel s.fb ((s.reg y).toNat + row) ((s.reg x).toNat + bit) = false)

/-- R88: no step but one that executes 00E0 or Dxyn changes the frame buffer, no load does, and reset (D24) zeroes it. -/
def Obligations.OnlyDisplayInstructionsWriteScreen : Prop := ∀ s : State,
  (∃ t, step s = .next t ∧
    (t.fb = s.fb ∨ s.Executes ∧ (s.nextInstr = .cls ∨ ∃ x y n, s.nextInstr = .drw x y n))) ∧
  (∀ image t, loadImage image s = .next t → t.fb = s.fb) ∧
  ∀ r < 32, ∀ c < 64, FrameBuffer.pixel s.hostReset.fb r c = false

/-! ### Control transfer -/

/-- R90 (D4 for the fault, D22 for the kept slot): 00EE with sp = j + 1 pops slot j into pc and leaves every slot as it is;
with sp = 0 it raises STACK_UNDERFLOW and writes nothing else but redraw_pending. What a raise writes is R131 by the
spec's decision D5, and that `exec` itself answers with it is the model's choice (log entry 10). -/
def Obligations.ReturnPopsOrUnderflows : Prop := decodeWord 0x00EE = .ret ∧ ∀ s : State,
  (∀ j : Fin 16, s.sp.val = j.val + 1 → ∃ t, exec .ret s = .next t ∧ t.sp.val = j.val ∧
    t.pc = wrap12 (s.slot j).toNat ∧ t.stack = s.stack ∧ Frame { stack := true } s t) ∧
  (s.sp.val = 0 → exec .ret s = .next { s with redrawPending := false, fault := .stackUnderflow })

/-- R91: 1nnn sets pc to nnn, with no +2, and changes nothing else. -/
def Obligations.JumpSetsPc : Prop := ∀ (nnn : Addr) (s : State),
  decodeWord (joinNNN 0x1 nnn) = .jp nnn ∧ ∃ t, exec (.jp nnn) s = .next t ∧ t.pc = nnn ∧ Frame {} s t

/-- R92 (D4 for the fault, D3 and D22 for the width pushed): 2nnn with sp = j below 16 stores (pc + 2) mod 4096 in slot j,
leaves the other slots, increments sp and sets pc to nnn; with sp = 16 it raises STACK_OVERFLOW and writes nothing else but
redraw_pending. What a raise writes is R131 by the
spec's decision D5, and that `exec` itself answers with it is the model's choice (log entry 10). -/
def Obligations.CallPushesOrOverflows : Prop := ∀ (nnn : Addr) (s : State),
  decodeWord (joinNNN 0x2 nnn) = .call nnn ∧
  (∀ j : Fin 16, s.sp.val = j.val → ∃ t, exec (.call nnn) s = .next t ∧
    (t.slot j).toNat = (s.pc.toNat + 2) % 4096 ∧ (∀ k : Fin 16, k ≠ j → t.slot k = s.slot k) ∧
    t.sp.val = j.val + 1 ∧ t.pc = nnn ∧ Frame { stack := true } s t) ∧
  (s.sp.val = 16 → exec (.call nnn) s = .next { s with redrawPending := false, fault := .stackOverflow })

/-- R93: Bnnn sets pc to (nnn + V0) mod 4096, whatever the x field of the word, and changes nothing else. -/
def Obligations.JumpWithOffset : Prop := ∀ (nnn : Addr) (s : State),
  decodeWord (joinNNN 0xB nnn) = .jpV0 nnn ∧
  ∃ t, exec (.jpV0 nnn) s = .next t ∧ t.pc.toNat = (nnn.toNat + (s.reg 0).toNat) % 4096 ∧ Frame {} s t

/-- R90, R92 (D3 for the address pushed) with the source's §8 (E4): at any depth below 16, 00EE after 2nnn returns to the
call's address + 2 with sp as before, and the two together change nothing but pc and the one slot used. -/
def Obligations.CallThenReturn : Prop := ∀ (nnn : Addr) (s : State), s.sp.val < 16 →
  ∃ t u, exec (.call nnn) s = .next t ∧ exec .ret t = .next u ∧ u.pc = wrap12 (s.pc.toNat + 2) ∧ u.sp = s.sp ∧
    (∀ k : Fin 16, k.val ≠ s.sp.val → u.slot k = s.slot k) ∧ Frame { stack := true } s u

/-! ### Register skips -/

/-- R96, R97: 3xkk skips exactly when V[x] = kk and 4xkk exactly when V[x] differs from kk: pc + 4, else pc + 2, modulo 4096.
Neither changes anything else. -/
def Obligations.SkipOnImmediate : Prop := ∀ (x : Nibble) (kk : Byte) (s : State),
  decodeWord (joinXKK 0x3 x kk) = .seImm x kk ∧ decodeWord (joinXKK 0x4 x kk) = .sneImm x kk ∧
  (∃ t, exec (.seImm x kk) s = .next t ∧
    t.pc = (if s.reg x = kk then wrap12 (s.pc.toNat + 4) else wrap12 (s.pc.toNat + 2)) ∧ Frame {} s t) ∧
  (∃ t, exec (.sneImm x kk) s = .next t ∧
    t.pc = (if s.reg x ≠ kk then wrap12 (s.pc.toNat + 4) else wrap12 (s.pc.toNat + 2)) ∧ Frame {} s t)

/-- R98, R99: 5xy0 skips exactly when V[x] = V[y] and 9xy0 exactly when they differ; neither changes anything else. The words
with another low nibble are unknown encodings. -/
def Obligations.SkipOnRegisters : Prop := ∀ (x y : Nibble) (s : State),
  (∀ n, decodeWord (joinXYN 0x5 x y n) = if n = 0 then .seReg x y else .unknown (joinXYN 0x5 x y n)) ∧
  (∀ n, decodeWord (joinXYN 0x9 x y n) = if n = 0 then .sneReg x y else .unknown (joinXYN 0x9 x y n)) ∧
  (∃ t, exec (.seReg x y) s = .next t ∧
    t.pc = (if s.reg x = s.reg y then wrap12 (s.pc.toNat + 4) else wrap12 (s.pc.toNat + 2)) ∧ Frame {} s t) ∧
  (∃ t, exec (.sneReg x y) s = .next t ∧
    t.pc = (if s.reg x ≠ s.reg y then wrap12 (s.pc.toNat + 4) else wrap12 (s.pc.toNat + 2)) ∧ Frame {} s t)

/-! ### Register loads and ALU -/

/-- R100, R102: 6xkk puts kk in V[x], 8xy0 puts V[y] in V[x]; each register but x, and everything else but pc, is unchanged. -/
def Obligations.LoadRegister : Prop := ∀ (x y : Nibble) (kk : Byte) (s : State),
  decodeWord (joinXKK 0x6 x kk) = .ldImm x kk ∧ decodeWord (joinXYN 0x8 x y 0x0) = .ldReg x y ∧
  (∃ t, exec (.ldImm x kk) s = .next t ∧ t.reg x = kk ∧ t.pc = wrap12 (s.pc.toNat + 2) ∧ Frame { regs := [x] } s t) ∧
  (∃ t, exec (.ldReg x y) s = .next t ∧ t.reg x = s.reg y ∧ t.pc = wrap12 (s.pc.toNat + 2) ∧
    Frame { regs := [x] } s t)

/-- R101: 7xkk puts the 8-bit sum V[x] + kk in V[x], with no flag: VF is unchanged unless x is 0xF. -/
def Obligations.AddImmediateWraps : Prop := ∀ (x : Nibble) (kk : Byte) (s : State),
  decodeWord (joinXKK 0x7 x kk) = .addImm x kk ∧
  ∃ t, exec (.addImm x kk) s = .next t ∧ t.reg x = s.reg x + kk ∧ t.pc = wrap12 (s.pc.toNat + 2) ∧
    Frame { regs := [x] } s t

/-- R103, R104, R105: 8xy1, 8xy2, 8xy3 put OR, AND, XOR of V[x] and V[y] in V[x], bit by bit; VF is not reset. -/
def Obligations.BitwiseOperations : Prop := ∀ (x y : Nibble) (s : State),
  decodeWord (joinXYN 0x8 x y 0x1) = .orReg x y ∧ decodeWord (joinXYN 0x8 x y 0x2) = .andReg x y ∧
  decodeWord (joinXYN 0x8 x y 0x3) = .xorReg x y ∧
  (∃ t, exec (.orReg x y) s = .next t ∧
    (∀ b < 8, (t.reg x).getLsbD b = ((s.reg x).getLsbD b || (s.reg y).getLsbD b)) ∧
    t.pc = wrap12 (s.pc.toNat + 2) ∧ Frame { regs := [x] } s t) ∧
  (∃ t, exec (.andReg x y) s = .next t ∧
    (∀ b < 8, (t.reg x).getLsbD b = ((s.reg x).getLsbD b && (s.reg y).getLsbD b)) ∧
    t.pc = wrap12 (s.pc.toNat + 2) ∧ Frame { regs := [x] } s t) ∧
  (∃ t, exec (.xorReg x y) s = .next t ∧
    (∀ b < 8, (t.reg x).getLsbD b = ((s.reg x).getLsbD b ^^ (s.reg y).getLsbD b)) ∧
    t.pc = wrap12 (s.pc.toNat + 2) ∧ Frame { regs := [x] } s t)

/-- R106: 8xy4 puts the low 8 bits of the sum in V[x], and, where x is not 0xF, 1 in VF exactly when the unsigned sum exceeds
255, else 0. With x = 0xF the sum is what VF ends with, and with x or y = 0xF the operand is the old VF: these cases are R113's,
by the spec's decision D9 (log entry 11). -/
def Obligations.AddWithCarry : Prop := ∀ (x y : Nibble) (s : State),
  decodeWord (joinXYN 0x8 x y 0x4) = .addReg x y ∧
  ∃ t, exec (.addReg x y) s = .next t ∧ t.reg x = s.reg x + s.reg y ∧
    (x ≠ VF → t.reg VF = if (s.reg x).toNat + (s.reg y).toNat > 255 then 1 else 0) ∧
    t.pc = wrap12 (s.pc.toNat + 2) ∧ Frame { regs := [x, VF] } s t

/-- R107: 8xy5 puts the 8-bit difference V[x] - V[y] in V[x], and, where x is not 0xF, 1 in VF exactly when V[x] was strictly
greater than V[y], else 0. With x = 0xF the difference is what VF ends with, and with x or y = 0xF the operand is the old VF:
these cases are R113's, by the spec's decision D9 (log entry 11). -/
def Obligations.SubtractSetsStrictGreater : Prop := ∀ (x y : Nibble) (s : State),
  decodeWord (joinXYN 0x8 x y 0x5) = .sub x y ∧
  ∃ t, exec (.sub x y) s = .next t ∧ t.reg x = s.reg x - s.reg y ∧
    (x ≠ VF → t.reg VF = if (s.reg x).toNat > (s.reg y).toNat then 1 else 0) ∧
    t.pc = wrap12 (s.pc.toNat + 2) ∧ Frame { regs := [x, VF] } s t

/-- R108 (D30: no compatibility flag): 8xy6 puts V[x] shifted right by one in V[x], and, where x is not 0xF, the old bit 0 in
VF; the field y, at every value, has no effect. That with x = 0xF the shifted value is what VF ends with is R113, by the
spec's decision D9 (log entry 11). -/
def Obligations.ShiftRight : Prop := ∀ (x y : Nibble) (s : State),
  decodeWord (joinXYN 0x8 x y 0x6) = .shr x y ∧
  ∃ t, exec (.shr x y) s = .next t ∧ t.reg x = s.reg x >>> 1 ∧
    (x ≠ VF → (t.reg VF).toNat = (s.reg x).toNat % 2) ∧
    t.pc = wrap12 (s.pc.toNat + 2) ∧ Frame { regs := [x, VF] } s t

/-- R109: 8xy7 puts the 8-bit difference V[y] - V[x] in V[x], and, where x is not 0xF, 1 in VF exactly when V[y] was strictly
greater than V[x], else 0. With x = 0xF the difference is what VF ends with, and with x or y = 0xF the operand is the old VF:
these cases are R113's, by the spec's decision D9 (log entry 11). -/
def Obligations.SubtractReversed : Prop := ∀ (x y : Nibble) (s : State),
  decodeWord (joinXYN 0x8 x y 0x7) = .subn x y ∧
  ∃ t, exec (.subn x y) s = .next t ∧ t.reg x = s.reg y - s.reg x ∧
    (x ≠ VF → t.reg VF = if (s.reg y).toNat > (s.reg x).toNat then 1 else 0) ∧
    t.pc = wrap12 (s.pc.toNat + 2) ∧ Frame { regs := [x, VF] } s t

/-- R110 (D30: no compatibility flag): 8xyE puts V[x] shifted left by one in V[x], and, where x is not 0xF, the old bit 7 in
VF; the field y, at every value, has no effect. That with x = 0xF the shifted value is what VF ends with is R113, by the
spec's decision D9 (log entry 11). -/
def Obligations.ShiftLeft : Prop := ∀ (x y : Nibble) (s : State),
  decodeWord (joinXYN 0x8 x y 0xE) = .shl x y ∧
  ∃ t, exec (.shl x y) s = .next t ∧ t.reg x = s.reg x <<< 1 ∧
    (x ≠ VF → (t.reg VF).toNat = (s.reg x).toNat / 128) ∧
    t.pc = wrap12 (s.pc.toNat + 2) ∧ Frame { regs := [x, VF] } s t

/-- R111 (D8: the random byte is this step's input): Cxkk puts rand_byte AND kk in V[x], with no flag; it holds for every value
of the input, which is a field of the state and under no law. -/
def Obligations.RandomAndMask : Prop := ∀ (x : Nibble) (kk : Byte) (s : State),
  decodeWord (joinXKK 0xC x kk) = .rnd x kk ∧
  ∃ t, exec (.rnd x kk) s = .next t ∧
    (∀ b < 8, (t.reg x).getLsbD b = (s.randByte.getLsbD b && kk.getLsbD b)) ∧
    t.pc = wrap12 (s.pc.toNat + 2) ∧ Frame { regs := [x] } s t

/-- R113, which the spec derives from R106 to R110 with its decision D9 (operands latched, VF written first): the table of VF
aliasing, cell by cell. With x = 0xF the value wins over the flag; with y = 0xF the old VF is the operand, but of the shifts,
which ignore y. -/
def Obligations.FlagAliasing : Prop := ∀ (y : Nibble) (s : State),
  (∃ t, exec (.addReg VF y) s = .next t ∧ t.reg VF = s.reg VF + s.reg y) ∧
  (∃ t, exec (.sub VF y) s = .next t ∧ t.reg VF = s.reg VF - s.reg y) ∧
  (∃ t, exec (.shr VF y) s = .next t ∧ (t.reg VF).toNat = (s.reg VF).toNat / 2) ∧
  (∃ t, exec (.subn VF y) s = .next t ∧ t.reg VF = s.reg y - s.reg VF) ∧
  (∃ t, exec (.shl VF y) s = .next t ∧ (t.reg VF).toNat = 2 * (s.reg VF).toNat % 256) ∧
  (∃ t, exec (.sub VF VF) s = .next t ∧ t.reg VF = 0) ∧ (∃ t, exec (.subn VF VF) s = .next t ∧ t.reg VF = 0) ∧
  (y ≠ VF → (∃ t, exec (.addReg y VF) s = .next t ∧ t.reg y = s.reg y + s.reg VF ∧
      t.reg VF = if (s.reg y).toNat + (s.reg VF).toNat > 255 then 1 else 0) ∧
    (∃ t, exec (.sub y VF) s = .next t ∧ t.reg y = s.reg y - s.reg VF ∧
      t.reg VF = if (s.reg y).toNat > (s.reg VF).toNat then 1 else 0) ∧
    (∃ t, exec (.subn y VF) s = .next t ∧ t.reg y = s.reg VF - s.reg y ∧
      t.reg VF = if (s.reg VF).toNat > (s.reg y).toNat then 1 else 0) ∧
    (∃ t, exec (.shr y VF) s = .next t ∧ (t.reg y).toNat = (s.reg y).toNat / 2 ∧
      (t.reg VF).toNat = (s.reg y).toNat % 2) ∧
    (∃ t, exec (.shl y VF) s = .next t ∧ (t.reg y).toNat = 2 * (s.reg y).toNat % 256 ∧
      (t.reg VF).toNat = (s.reg y).toNat / 128))

/-! ### Index register and memory -/

/-- R115: Annn puts nnn in I with the upper four bits 0. -/
def Obligations.LoadIndex : Prop := ∀ (nnn : Addr) (s : State),
  decodeWord (joinNNN 0xA nnn) = .ldI nnn ∧
  ∃ t, exec (.ldI nnn) s = .next t ∧ t.I.toNat = nnn.toNat ∧ t.pc = wrap12 (s.pc.toNat + 2) ∧
    Frame { I := true } s t

/-- R116: Fx1E puts (I + V[x]) mod 65536 in I, with no flag. -/
def Obligations.AddToIndex : Prop := ∀ (x : Nibble) (s : State),
  decodeWord (joinXKK 0xF x 0x1E) = .addI x ∧
  ∃ t, exec (.addI x) s = .next t ∧ t.I.toNat = (s.I.toNat + (s.reg x).toNat) % 65536 ∧
    t.pc = wrap12 (s.pc.toNat + 2) ∧ Frame { I := true } s t

/-- R117 (D27: no masking): Fx29 puts 5 * V[x] in I, for every V[x], 0 to 255. -/
def Obligations.PointAtGlyph : Prop := ∀ (x : Nibble) (s : State),
  decodeWord (joinXKK 0xF x 0x29) = .ldF x ∧
  ∃ t, exec (.ldF x) s = .next t ∧ t.I.toNat = 5 * (s.reg x).toNat ∧ t.pc = wrap12 (s.pc.toNat + 2) ∧
    Frame { I := true } s t

/-- R118 (R41 with D2 for the addresses modulo 4096, log entry 11): Fx33 stores the hundreds, tens and ones digit of V[x] at
wrap12(I), wrap12(I + 1), wrap12(I + 2); I and every other byte are unchanged. -/
def Obligations.StoreBcd : Prop := ∀ (x : Nibble) (s : State),
  decodeWord (joinXKK 0xF x 0x33) = .ldB x ∧
  ∃ t, exec (.ldB x) s = .next t ∧
    (t.readByte s.I.toNat).toNat = (s.reg x).toNat / 100 ∧
    (t.readByte (s.I.toNat + 1)).toNat = (s.reg x).toNat / 10 % 10 ∧
    (t.readByte (s.I.toNat + 2)).toNat = (s.reg x).toNat % 10 ∧
    t.pc = wrap12 (s.pc.toNat + 2) ∧ Frame { stored := [s.effAddr 0, s.effAddr 1, s.effAddr 2] } s t

/-- R119 (D17: I is unchanged; D2 for the addresses modulo 4096): Fx55 stores V[j] at wrap12(I + j) for j = 0..x, and every
other byte is unchanged. -/
def Obligations.StoreRegisters : Prop := ∀ (x : Nibble) (s : State),
  decodeWord (joinXKK 0xF x 0x55) = .ldMemVx x ∧
  ∃ t, exec (.ldMemVx x) s = .next t ∧
    (∀ j : Nibble, j ≤ x → t.readByte (s.I.toNat + j.toNat) = s.reg j) ∧
    t.pc = wrap12 (s.pc.toNat + 2) ∧ Frame { stored := (List.range (x.toNat + 1)).map s.effAddr } s t

/-- R120 (D17: I is unchanged; D2 for the addresses modulo 4096): Fx65 loads V[j] from wrap12(I + j) for j = 0..x; the
registers above x are unchanged. -/
def Obligations.LoadRegisters : Prop := ∀ (x : Nibble) (s : State),
  decodeWord (joinXKK 0xF x 0x65) = .ldVxMem x ∧
  ∃ t, exec (.ldVxMem x) s = .next t ∧
    (∀ j : Nibble, j ≤ x → t.reg j = s.readByte (s.I.toNat + j.toNat)) ∧
    (∀ j : Nibble, x < j → t.reg j = s.reg j) ∧ t.pc = wrap12 (s.pc.toNat + 2) ∧
    Frame { regs := (List.range (x.toNat + 1)).map (BitVec.ofNat 4) } s t

/-! ### Keys and timers -/

/-- R122, R123 (D7 for the fault): with V[x] = k in 0..15, Ex9E skips exactly when key k is held and ExA1 exactly when it is
not, and neither changes anything else; with V[x] above 15 both raise KEY_INDEX_OUT_OF_RANGE and write nothing else but
redraw_pending. What a raise writes is R131 by the
spec's decision D5, and that `exec` itself answers with it is the model's choice (log entry 10). -/
def Obligations.SkipOnKey : Prop := ∀ (x : Nibble) (s : State),
  decodeWord (joinXKK 0xE x 0x9E) = .skp x ∧ decodeWord (joinXKK 0xE x 0xA1) = .sknp x ∧
  (∀ k : Fin 16, (s.reg x).toNat = k.val →
    (∃ t, exec (.skp x) s = .next t ∧
      t.pc = (if s.keyState[k] = true then wrap12 (s.pc.toNat + 4) else wrap12 (s.pc.toNat + 2)) ∧ Frame {} s t) ∧
    (∃ t, exec (.sknp x) s = .next t ∧
      t.pc = (if s.keyState[k] = false then wrap12 (s.pc.toNat + 4) else wrap12 (s.pc.toNat + 2)) ∧ Frame {} s t)) ∧
  ((s.reg x).toNat > 15 →
    exec (.skp x) s = .next { s with redrawPending := false, fault := .keyIndexOutOfRange } ∧
    exec (.sknp x) s = .next { s with redrawPending := false, fault := .keyIndexOutOfRange })

/-- R124: Fx07 puts DT in V[x] and leaves DT; in a step the value is that after the cycle's tick. -/
def Obligations.ReadDelayTimer : Prop := ∀ (x : Nibble) (s : State),
  decodeWord (joinXKK 0xF x 0x07) = .ldVxDT x ∧
  (∃ t, exec (.ldVxDT x) s = .next t ∧ t.reg x = s.DT ∧ t.pc = wrap12 (s.pc.toNat + 2) ∧ Frame { regs := [x] } s t) ∧
  (s.Executes → s.nextInstr = .ldVxDT x →
    ∃ t, step s = .next t ∧ (t.reg x).toNat = s.DT.toNat - 1 ∧ t.DT.toNat = s.DT.toNat - 1)

/-- R125 (D19: level-sensitive) as far as its own cycle goes: Fx0A enters WaitingForKey(x), advances pc by 2 and changes
nothing else, whatever key is held in this cycle. -/
def Obligations.EnterKeyWait : Prop := ∀ (x : Nibble) (s : State),
  decodeWord (joinXKK 0xF x 0x0A) = .ldVxK x ∧
  ∃ t, exec (.ldVxK x) s = .next t ∧ t.mode = .waitingForKey x ∧ t.pc = wrap12 (s.pc.toNat + 2) ∧
    Frame { mode := true } s t

/-- R126, R127: Fx15 puts V[x] in DT and Fx18 puts it in ST; the value stands at the end of the step, not ticked. -/
def Obligations.SetTimers : Prop := ∀ (x : Nibble) (s : State),
  decodeWord (joinXKK 0xF x 0x15) = .ldDTVx x ∧ decodeWord (joinXKK 0xF x 0x18) = .ldSTVx x ∧
  (∃ t, exec (.ldDTVx x) s = .next t ∧ t.DT = s.reg x ∧ t.pc = wrap12 (s.pc.toNat + 2) ∧ Frame { DT := true } s t) ∧
  (∃ t, exec (.ldSTVx x) s = .next t ∧ t.ST = s.reg x ∧ t.pc = wrap12 (s.pc.toNat + 2) ∧ Frame { ST := true } s t) ∧
  (s.Executes → s.nextInstr = .ldDTVx x → ∃ t, step s = .next t ∧ t.DT = s.reg x) ∧
  (s.Executes → s.nextInstr = .ldSTVx x → ∃ t, step s = .next t ∧ t.ST = s.reg x)

/-- R65: a word that matches no row decodes to the no-op of its own, which advances pc by 2 and changes nothing else; a step of
a Running core on it samples the keys, ticks the timers, clears redraw_pending, returns redraw false and no fault, and leaves
everything else. -/
def Obligations.UnknownEncodingIsNoOp : Prop := ∀ (w : Word) (s : State),
  ((∀ r ∈ opcodeRows, r.Matches w = false) → decodeWord w = .unknown w) ∧
  (∃ t, exec (.unknown w) s = .next t ∧ t.pc = wrap12 (s.pc.toNat + 2) ∧ Frame {} s t) ∧
  (s.Executes → s.fetchWord = w → (∀ r ∈ opcodeRows, r.Matches w = false) →
    ∃ t, step s = .next t ∧ t.redrawOut = false ∧ t.faultOut = .none ∧ t.DT.toNat = s.DT.toNat - 1 ∧
      t.ST.toNat = s.ST.toNat - 1 ∧ SameMachineState
        { s with
          pc := wrap12 (s.pc.toNat + 2)
          keyState := s.nextInput.keys
          redrawPending := false
          DT := t.DT
          ST := t.ST } t)

/-! ### Rules over all instructions -/

/-- R23, R25, R26, R29, R31, R49, R88, R140: which instructions write I, memory, the stack slots, sp, DT, ST, the frame buffer
and the mode; every other instruction leaves them. That 00EE leaves the slots is the spec's decision D22, and that Fx55 and
Fx65 leave I its decision D17 (log entry 11). -/
def Obligations.OnlyNamedInstructionsWrite : Prop := ∀ (i : Instr) (s : State), ∃ t, exec i s = .next t ∧
  (t.I = s.I ∨ (∃ nnn, i = .ldI nnn) ∨ ∃ x, i = .addI x ∨ i = .ldF x) ∧
  ((∀ a, t.readByte a = s.readByte a) ∨ ∃ x, i = .ldB x ∨ i = .ldMemVx x) ∧
  (t.stack = s.stack ∨ ∃ nnn, i = .call nnn) ∧
  (t.sp = s.sp ∨ i = .ret ∨ ∃ nnn, i = .call nnn) ∧
  (t.DT = s.DT ∨ ∃ x, i = .ldDTVx x) ∧
  (t.ST = s.ST ∨ ∃ x, i = .ldSTVx x) ∧
  (t.fb = s.fb ∨ i = .cls ∨ ∃ x y n, i = .drw x y n) ∧
  (t.mode = s.mode ∨ ∃ x, i = .ldVxK x)

/-- R21, R22, R114: VF changes only by an instruction that names it as its destination or by 8xy4 to 8xyE and Dxyn, and each of
those five with x not 0xF writes 0 or 1. Dxyn writes 0 or 1 for every x: R86, with the spec's decision D9 for x = 0xF. -/
def Obligations.OnlyTheseInstructionsWriteVF : Prop := ∀ (i : Instr) (s : State), ∃ t, exec i s = .next t ∧
  (t.reg VF = s.reg VF ∨
    (∃ kk, i = .ldImm VF kk ∨ i = .addImm VF kk ∨ i = .rnd VF kk) ∨
    (∃ y, i = .ldReg VF y ∨ i = .orReg VF y ∨ i = .andReg VF y ∨ i = .xorReg VF y) ∨
    i = .ldVxDT VF ∨ i = .ldVxMem VF ∨
    (∃ x y, i = .addReg x y ∨ i = .sub x y ∨ i = .shr x y ∨ i = .subn x y ∨ i = .shl x y) ∨
    ∃ x y n, i = .drw x y n) ∧
  ((∃ x y, x ≠ VF ∧ (i = .addReg x y ∨ i = .sub x y ∨ i = .shr x y ∨ i = .subn x y ∨ i = .shl x y)) ∨
    (∃ x y n, i = .drw x y n) → t.reg VF = 0 ∨ t.reg VF = 1)

/-- R70, R144 (D8): every instruction but Cxkk ignores the random byte: with another byte at the port it does the same. -/
def Obligations.RandomByteReachesOnlyRnd : Prop := ∀ (i : Instr) (s : State) (b : Byte), (∀ x kk, i ≠ .rnd x kk) →
  ∃ t, exec i s = .next t ∧ exec i { s with randByte := b } = .next { t with randByte := b }

/-- R129, R130 (D2, D4, D7): every instruction, on every state, answers a next state, and the fault it raises is that of the
table of R129: three conditions and no other. That a raise shows in the state `exec` answers is the model's choice (log entry
10). -/
def Obligations.FaultsOnExactlyThreeConditions : Prop := ∀ (i : Instr) (s : State), s.fault = .none →
  ∃ t, exec i s = .next t ∧ t.fault = faultOf i s

/-! ### The cycle engine -/

/-- R139 (R131, D5 for faults): per step, each timer goes one down and stays at 0, in a Running cycle that does not fault and
before its instruction (so Fx07 reads the ticked value and Fx15, Fx18 overwrite it); in a waiting, faulting or faulted cycle
it stays. -/
def Obligations.TimersTickPerCycle : Prop := ∀ s : State, ∃ t, step s = .next t ∧
  (¬ s.Executes → t.DT = s.DT ∧ t.ST = s.ST) ∧
  (s.Executes → t.fault ≠ .none → t.DT = s.DT ∧ t.ST = s.ST) ∧
  (s.Executes → t.fault = .none →
    ((∀ x, s.nextInstr ≠ .ldDTVx x) → t.DT.toNat = s.DT.toNat - 1) ∧
    ((∀ x, s.nextInstr ≠ .ldSTVx x) → t.ST.toNat = s.ST.toNat - 1) ∧
    (∀ x, s.nextInstr = .ldVxDT x → (t.reg x).toNat = s.DT.toNat - 1) ∧
    (∀ x, s.nextInstr = .ldDTVx x → t.DT = s.reg x) ∧ (∀ x, s.nextInstr = .ldSTVx x → t.ST = s.reg x))

/-- R77 (R131, D5 for faults): the next pc of every step: the table's for a Running cycle that does not fault; pc itself for a
waiting, faulting or faulted cycle. The key skips read this cycle's sample (R122, R128). -/
def Obligations.NextPcOfEveryStep : Prop := ∀ s : State, ∃ t, step s = .next t ∧
  (¬ s.Executes → t.pc = s.pc) ∧
  (s.Executes → faultOf s.nextInstr s ≠ .none → t.pc = s.pc) ∧
  (s.Executes → faultOf s.nextInstr s = .none → t.pc = nextPc s.nextInstr { s with keyState := s.nextInput.keys })

/-- R82: a step returns redraw exactly when its cycle executed 00E0 or Dxyn, and so only then ends with redraw_pending set in a
cycle that was not faulted at its start. -/
def Obligations.RedrawExactlyAfterDisplay : Prop := ∀ s : State, ∃ t, step s = .next t ∧
  (t.redrawOut = true ↔ s.Executes ∧ (s.nextInstr = .cls ∨ ∃ x y n, s.nextInstr = .drw x y n)) ∧
  (s.fault = .none → t.redrawPending = t.redrawOut)

/-- R72 with R131 and R79 (D5, D23): a cycle that neither is faulted nor faults ends with the 16 keys of this step's sample,
Running or waiting; any other cycle leaves them. -/
def Obligations.KeysSampledEachCycle : Prop := ∀ s : State, ∃ t, step s = .next t ∧
  t.keyState = if t.fault = .none then s.nextInput.keys else s.keyState

/-- R131, R132 (D5): a faulting cycle ends with the Machine State before it, but for redraw_pending false and the code latched,
and returns no redraw and the code. -/
def Obligations.FaultEntryDiscardsCycle : Prop := ∀ s : State, s.Executes → faultOf s.nextInstr s ≠ .none →
  ∃ t, step s = .next t ∧ t.redrawOut = false ∧ t.faultOut = faultOf s.nextInstr s ∧
    SameMachineState { s with redrawPending := false, fault := faultOf s.nextInstr s } t

/-- R79, R132, R134 (D5, D23): a faulted core, however many steps it is given, keeps its whole Machine State and reports its
code with redraw false at each. -/
def Obligations.FaultedCoreStaysAsItIs : Prop := ∀ (n : Nat) (s : State), s.fault ≠ .none →
  ∃ t : State, Host.Core.run Sys2Proof.core n s = .next t ∧ SameMachineState s t ∧
    (n ≠ 0 → t.redrawOut = false ∧ t.faultOut = s.fault)

/-- R80, R81: every step of every state completes with a next state; it never stops, and the reserved code ADDRESS_OUT_OF_RANGE
is never raised (R129, D2). It returns the latched code (R70, D29), at a port held in the state by the model's choice (log
entry 8). It closes the load window of R155 (D14), which the model tells by a bit of its own, `started` (log entry 5). -/
def Obligations.EveryStepCompletes : Prop := ∀ s : State, ∃ t, step s = .next t ∧
  (s.fault ≠ .addressOutOfRange → t.fault ≠ .addressOutOfRange) ∧ t.faultOut = t.fault ∧ t.started = true

/-- R74 (D19: level-sensitive): a waiting cycle executes nothing. With no key held in its sample only key_state and
redraw_pending are written; with k the least held key, V[target] becomes k and the mode Running, and nothing else is written. -/
def Obligations.WaitingCycle : Prop := ∀ (s : State) (r : Nibble), s.fault = .none → s.mode = .waitingForKey r →
  ∃ t, step s = .next t ∧ t.redrawOut = false ∧ t.faultOut = .none ∧
    (noKey s.nextInput.keys →
      SameMachineState { s with keyState := s.nextInput.keys, redrawPending := false } t) ∧
    (∀ k : Fin 16, IsLeastHeld s.nextInput.keys k →
      (t.reg r).toNat = k.val ∧ (∀ q, q ≠ r → t.reg q = s.reg q) ∧ SameMachineState
        { s with
          V := t.V
          keyState := s.nextInput.keys
          mode := .running
          redrawPending := false } t)

/-- R74, R125, R147, R161 (D19: level-sensitive): a wait lasts through any number of cycles with no key held, and the first
cycle with a key held ends it with the least held key in the target register; pc, I, both timers, the stack, the screen and
every byte of memory are as the wait began. The script `inputs`, of which the wait uses up the samples named here and leaves
the rest, is the model's choice (log entry 3). -/
def Obligations.KeyWaitResolves : Prop := ∀ (s : State) (r : Nibble) (k : Fin 16) (idle rest : List StepInput)
    (wake : StepInput), s.fault = .none → s.mode = .waitingForKey r → s.inputs = idle ++ wake :: rest →
  (∀ i ∈ idle, noKey i.keys) → IsLeastHeld wake.keys k →
  ∃ t : State, Host.Core.run Sys2Proof.core (idle.length + 1) s = .next t ∧ t.mode = .running ∧
    (t.reg r).toNat = k.val ∧ (∀ q, q ≠ r → t.reg q = s.reg q) ∧ t.pc = s.pc ∧ t.I = s.I ∧ t.DT = s.DT ∧ t.ST = s.ST ∧
    t.stack = s.stack ∧ t.sp = s.sp ∧ t.fb = s.fb ∧ (∀ a, t.readByte a = s.readByte a) ∧ t.inputs = rest

/-- R164 (b), the spec's decision D28: a core in a self-loop stays in it for every number of steps, its timers going down to 0.
Nothing else of the Machine State changes but key_state and redraw_pending, which every Running cycle writes (R72, R73): R164
names only the timers, and that it leaves room for these two is the reading of log entry 13. -/
def Obligations.SelfLoopRunsDownItsTimers : Prop := ∀ (n : Nat) (s : State), s.SelfLoop →
  ∃ t : State, Host.Core.run Sys2Proof.core n s = .next t ∧ t.SelfLoop ∧
    t.DT.toNat = s.DT.toNat - n ∧ t.ST.toNat = s.ST.toNat - n ∧ SameMachineState
      { s with
        DT := t.DT
        ST := t.ST
        keyState := t.keyState
        redrawPending := t.redrawPending } t

/-! ### Invariant, memory, reset and load -/

/-- R38, R165: every step keeps the invariant, from every state that has it. Its clause on redraw_pending of a faulted core is
R131 (D5), its clause on the reserved code R129 (D2), and its clauses on the output ports R70 (D29), with ports held in the
state by the model's choice (log entry 8). The form of memory is the model's choice too (log entries 1 and 2). -/
def Obligations.InvariantKeptByStep : Prop := ∀ s t : State, s.Inv → step s = .next t → t.Inv

/-- R38, R165: the invariant holds after construct (R150; D5 and D13 for fault and redraw_pending). That the output ports show
redraw_pending and fault before the first step is the model's choice (log entry 6), and so is the form of memory (log entries 1
and 2). -/
def Obligations.InvariantAtReset : Prop := State.reset.Inv

/-- R38, R149, R165: every move of the host's (reset, load, step with any input) keeps the invariant. The clauses beyond R38
rest on R131 (D5), R129 (D2) and R70 (D29) as in InvariantKeptByStep. What the output ports show after a reset is the model's
choice (log entry 6), and so are the ports in the state (log entry 8) and the form of memory (log entries 1 and 2). -/
def Obligations.InvariantKeptByHostMoves : Prop := ∀ (m : HostMove) (s t : State), s.Inv → hostMove m s = .next t → t.Inv

/-- R41 (D2 for the addresses modulo 4096, log entry 11), R46, R47, R50, R51, R53: a byte stored is the byte read back at its
address modulo 4096, every other byte is as before, and a word stored at pc, at every pc, is the word the next cycle fetches.
-/
def Obligations.ReadsGiveTheLastWrite : Prop := ∀ (s : State) (a c : Nat) (b : Byte) (w : Word),
  (s.writeByte a b).readByte c = (if c % 4096 = a % 4096 then b else s.readByte c) ∧
  (s.writeBytes s.pc.toNat (bytesOfWord w)).fetchWord = w

/-- R36, R150, R151 (D5, D11, D12, D13): the state after construct, element by element; GLYPHS and MEM_INIT are the open
parameters, free values of Config (log entry 1); a reset from any state gives the same Machine State (D24). That it opens the
load window (R155, D14) is told by a bit of the model's own, `started` (log entry 5). -/
def Obligations.StateAfterReset : Prop :=
  (∀ r, State.reset.reg r = 0) ∧ State.reset.I = 0 ∧ State.reset.pc = 0x200 ∧
  (∀ j, State.reset.slot j = 0) ∧ State.reset.sp = 0 ∧ State.reset.DT = 0 ∧ State.reset.ST = 0 ∧
  (∀ r < 32, ∀ c < 64, FrameBuffer.pixel State.reset.fb r c = false) ∧
  (∀ a < 0x50, State.reset.readByte a = Config.glyphs a) ∧
  (∀ a < 0x1000, 0x50 ≤ a → State.reset.readByte a = Config.memInit a) ∧
  noKey State.reset.keyState ∧ State.reset.mode = .running ∧ State.reset.redrawPending = false ∧
  State.reset.fault = .none ∧ ∀ s : State, SameMachineState State.reset s.hostReset ∧ s.hostReset.started = false

/-- R153, R154, R155 (D14, D26): before the first step a load copies the first 3584 bytes of the image to 0x200 on and changes
nothing else; `truncated` tells whether bytes were dropped; after the first step there is no such move. The bit `started` and
the name of the refusal are the model's choice (log entry 5). -/
def Obligations.LoadCopiesImage : Prop := ∀ (image : List Byte) (s : State),
  (s.started = false → ∃ t, loadImage image s = .next t ∧
    (∀ j (h : j < image.length), j < 3584 → t.readByte (0x200 + j) = image[j]) ∧
    (∀ a < 4096, (a < 0x200 ∨ 0x200 + image.length ≤ a) → t.readByte a = s.readByte a) ∧
    t = { s with memory := t.memory }) ∧
  (s.started = true → loadImage image s = .refused .loadAfterFirstStep) ∧
  (truncated image = true ↔ image.length > 3584)
end

