-- ==== Sys2Proof/Laws/Encoding.lean ====
section
/-! SUPPORT. The fields of a word put together from fields, and a word put together from its own fields. -/

namespace Sys2Proof

variable (op x y n : Nibble) (kk : Byte) (nnn : Addr) (w : Word)

@[simp] theorem toNat_joinXYN :
    (joinXYN op x y n).toNat = op.toNat * 4096 + x.toNat * 256 + y.toNat * 16 + n.toNat := by
  show BitVec.toNat (w := 4 + 4 + 4 + 4) (op ++ x ++ y ++ n) = _
  simp only [BitVec.toNat_append]
  rw [← Nat.shiftLeft_add_eq_or_of_lt x.isLt, ← Nat.shiftLeft_add_eq_or_of_lt y.isLt,
    ← Nat.shiftLeft_add_eq_or_of_lt n.isLt]
  simp only [Nat.shiftLeft_eq]
  omega

@[simp] theorem toNat_joinXKK : (joinXKK op x kk).toNat = op.toNat * 4096 + x.toNat * 256 + kk.toNat := by
  show BitVec.toNat (w := 4 + 4 + 8) (op ++ x ++ kk) = _
  simp only [BitVec.toNat_append]
  rw [← Nat.shiftLeft_add_eq_or_of_lt x.isLt, ← Nat.shiftLeft_add_eq_or_of_lt kk.isLt]
  simp only [Nat.shiftLeft_eq]
  omega

@[simp] theorem toNat_joinNNN : (joinNNN op nnn).toNat = op.toNat * 4096 + nnn.toNat := by
  show BitVec.toNat (w := 4 + 12) (op ++ nnn) = _
  rw [BitVec.toNat_append, ← Nat.shiftLeft_add_eq_or_of_lt nnn.isLt, Nat.shiftLeft_eq]

@[simp] theorem toNat_wordOfBytes (hi lo : Byte) : (wordOfBytes hi lo).toNat = hi.toNat * 256 + lo.toNat := by
  show BitVec.toNat (w := 8 + 8) (hi ++ lo) = _
  rw [BitVec.toNat_append, ← Nat.shiftLeft_add_eq_or_of_lt lo.isLt, Nat.shiftLeft_eq]

theorem toNat_fieldOp : (fieldOp w).toNat = w.toNat / 4096 % 16 := by
  simp [fieldOp, Nat.shiftRight_eq_div_pow]

theorem toNat_fieldX : (fieldX w).toNat = w.toNat / 256 % 16 := by
  simp [fieldX, Nat.shiftRight_eq_div_pow]

theorem toNat_fieldY : (fieldY w).toNat = w.toNat / 16 % 16 := by
  simp [fieldY, Nat.shiftRight_eq_div_pow]

theorem toNat_fieldN : (fieldN w).toNat = w.toNat % 16 := by
  simp [fieldN]

theorem toNat_fieldKK : (fieldKK w).toNat = w.toNat % 256 := by
  simp [fieldKK]

theorem toNat_fieldNNN : (fieldNNN w).toNat = w.toNat % 4096 := by
  simp [fieldNNN]

/-! ### The fields of a word put together from fields -/

@[simp] theorem fieldOp_joinXYN : fieldOp (joinXYN op x y n) = op :=
  BitVec.eq_of_toNat_eq (by rw [toNat_fieldOp, toNat_joinXYN]; have := op.isLt; have := x.isLt; have := y.isLt; have := n.isLt; omega)

@[simp] theorem fieldX_joinXYN : fieldX (joinXYN op x y n) = x :=
  BitVec.eq_of_toNat_eq (by rw [toNat_fieldX, toNat_joinXYN]; have := op.isLt; have := x.isLt; have := y.isLt; have := n.isLt; omega)

@[simp] theorem fieldY_joinXYN : fieldY (joinXYN op x y n) = y :=
  BitVec.eq_of_toNat_eq (by rw [toNat_fieldY, toNat_joinXYN]; have := op.isLt; have := x.isLt; have := y.isLt; have := n.isLt; omega)

@[simp] theorem fieldN_joinXYN : fieldN (joinXYN op x y n) = n :=
  BitVec.eq_of_toNat_eq (by rw [toNat_fieldN, toNat_joinXYN]; have := op.isLt; have := x.isLt; have := y.isLt; have := n.isLt; omega)

@[simp] theorem fieldOp_joinXKK : fieldOp (joinXKK op x kk) = op :=
  BitVec.eq_of_toNat_eq (by rw [toNat_fieldOp, toNat_joinXKK]; have := op.isLt; have := x.isLt; have := kk.isLt; omega)

@[simp] theorem fieldX_joinXKK : fieldX (joinXKK op x kk) = x :=
  BitVec.eq_of_toNat_eq (by rw [toNat_fieldX, toNat_joinXKK]; have := op.isLt; have := x.isLt; have := kk.isLt; omega)

@[simp] theorem fieldKK_joinXKK : fieldKK (joinXKK op x kk) = kk :=
  BitVec.eq_of_toNat_eq (by rw [toNat_fieldKK, toNat_joinXKK]; have := op.isLt; have := x.isLt; have := kk.isLt; omega)

@[simp] theorem fieldOp_joinNNN : fieldOp (joinNNN op nnn) = op :=
  BitVec.eq_of_toNat_eq (by rw [toNat_fieldOp, toNat_joinNNN]; have := op.isLt; have := nnn.isLt; omega)

@[simp] theorem fieldNNN_joinNNN : fieldNNN (joinNNN op nnn) = nnn :=
  BitVec.eq_of_toNat_eq (by rw [toNat_fieldNNN, toNat_joinNNN]; have := op.isLt; have := nnn.isLt; omega)

/-! ### A word put together from its own fields -/

@[simp] theorem joinXYN_fields : joinXYN (fieldOp w) (fieldX w) (fieldY w) (fieldN w) = w :=
  BitVec.eq_of_toNat_eq (by
    rw [toNat_joinXYN, toNat_fieldOp, toNat_fieldX, toNat_fieldY, toNat_fieldN]; have := w.isLt; omega)

@[simp] theorem joinXKK_fields : joinXKK (fieldOp w) (fieldX w) (fieldKK w) = w :=
  BitVec.eq_of_toNat_eq (by rw [toNat_joinXKK, toNat_fieldOp, toNat_fieldX, toNat_fieldKK]; have := w.isLt; omega)

@[simp] theorem joinNNN_fields : joinNNN (fieldOp w) (fieldNNN w) = w :=
  BitVec.eq_of_toNat_eq (by rw [toNat_joinNNN, toNat_fieldOp, toNat_fieldNNN]; have := w.isLt; omega)

/-- The two bytes of a word, high byte first, are that word (R46). -/
theorem wordOfBytes_bytesOfWord : wordOfBytes (w.extractLsb' 8 8) (w.extractLsb' 0 8) = w :=
  BitVec.eq_of_toNat_eq (by
    rw [toNat_wordOfBytes]
    simp only [BitVec.extractLsb'_toNat, Nat.shiftRight_eq_div_pow]
    have := w.isLt
    omega)

/-! ### Masks -/

theorem joinXYN_and (op' x' y' n' : Nibble) :
    joinXYN op x y n &&& joinXYN op' x' y' n' = joinXYN (op &&& op') (x &&& x') (y &&& y') (n &&& n') := by
  show ((op ++ x ++ y ++ n : BitVec (4 + 4 + 4 + 4)) &&& (op' ++ x' ++ y' ++ n')) = _
  rw [BitVec.and_append, BitVec.and_append, BitVec.and_append]
  rfl

theorem joinXKK_and (op' x' : Nibble) (kk' : Byte) :
    joinXKK op x kk &&& joinXKK op' x' kk' = joinXKK (op &&& op') (x &&& x') (kk &&& kk') := by
  show ((op ++ x ++ kk : BitVec (4 + 4 + 8)) &&& (op' ++ x' ++ kk')) = _
  rw [BitVec.and_append, BitVec.and_append]
  rfl

theorem joinNNN_and (op' : Nibble) (nnn' : Addr) :
    joinNNN op nnn &&& joinNNN op' nnn' = joinNNN (op &&& op') (nnn &&& nnn') := by
  show ((op ++ nnn : BitVec (4 + 12)) &&& (op' ++ nnn')) = _
  rw [BitVec.and_append]
  rfl

/-- A mask that keeps the class alone. -/
@[simp] theorem matches_F000 (p : Nibble) :
    OpRow.Matches ⟨0xF000#16, joinNNN p 0⟩ w = true ↔ fieldOp w = p := by
  have h := joinNNN_and (fieldOp w) (fieldNNN w) 0xF 0
  rw [joinNNN_fields] at h
  have hm : (joinNNN 0xF 0 : Word) = 0xF000#16 := by decide
  rw [hm] at h
  simp only [OpRow.Matches, h, beq_iff_eq]
  constructor
  · intro h
    have := congrArg fieldOp h
    rw [fieldOp_joinNNN, fieldOp_joinNNN] at this
    rw [← this]
    exact (BitVec.and_allOnes (x := fieldOp w)).symm
  · intro h
    rw [h, show p &&& 0xF = p from BitVec.and_allOnes (x := p), show fieldNNN w &&& 0 = 0 from BitVec.and_zero]

/-- A mask that keeps the class and the low nibble. -/
@[simp] theorem matches_F00F (p q : Nibble) :
    OpRow.Matches ⟨0xF00F#16, joinXYN p 0 0 q⟩ w = true ↔ fieldOp w = p ∧ fieldN w = q := by
  have h := joinXYN_and (fieldOp w) (fieldX w) (fieldY w) (fieldN w) 0xF 0 0 0xF
  rw [joinXYN_fields] at h
  have hm : (joinXYN 0xF 0 0 0xF : Word) = 0xF00F#16 := by decide
  rw [hm] at h
  simp only [OpRow.Matches, h, beq_iff_eq]
  constructor
  · intro h
    have ho := congrArg fieldOp h
    have hn := congrArg fieldN h
    rw [fieldOp_joinXYN, fieldOp_joinXYN] at ho
    rw [fieldN_joinXYN, fieldN_joinXYN] at hn
    rw [← ho, ← hn]
    exact ⟨(BitVec.and_allOnes (x := fieldOp w)).symm, (BitVec.and_allOnes (x := fieldN w)).symm⟩
  · rintro ⟨ho, hn⟩
    rw [ho, hn, show p &&& 0xF = p from BitVec.and_allOnes (x := p), show q &&& 0xF = q from BitVec.and_allOnes (x := q),
      show fieldX w &&& 0 = 0 from BitVec.and_zero, show fieldY w &&& 0 = 0 from BitVec.and_zero]

/-- A mask that keeps the class and the low byte. -/
@[simp] theorem matches_F0FF (p : Nibble) (b : Byte) :
    OpRow.Matches ⟨0xF0FF#16, joinXKK p 0 b⟩ w = true ↔ fieldOp w = p ∧ fieldKK w = b := by
  have h := joinXKK_and (fieldOp w) (fieldX w) (fieldKK w) 0xF 0 0xFF
  rw [joinXKK_fields] at h
  have hm : (joinXKK 0xF 0 0xFF : Word) = 0xF0FF#16 := by decide
  rw [hm] at h
  simp only [OpRow.Matches, h, beq_iff_eq]
  constructor
  · intro h
    have ho := congrArg fieldOp h
    have hn := congrArg fieldKK h
    rw [fieldOp_joinXKK, fieldOp_joinXKK] at ho
    rw [fieldKK_joinXKK, fieldKK_joinXKK] at hn
    rw [← ho, ← hn]
    exact ⟨(BitVec.and_allOnes (x := fieldOp w)).symm, (BitVec.and_allOnes (x := fieldKK w)).symm⟩
  · rintro ⟨ho, hn⟩
    rw [ho, hn, show p &&& 0xF = p from BitVec.and_allOnes (x := p), show b &&& 0xFF = b from BitVec.and_allOnes (x := b),
      show fieldX w &&& 0 = 0 from BitVec.and_zero]

/-- A mask that keeps the whole word. -/
@[simp] theorem matches_FFFF (p : Word) : OpRow.Matches ⟨0xFFFF#16, p⟩ w = true ↔ w = p := by
  rw [OpRow.Matches, beq_iff_eq, show w &&& 0xFFFF#16 = w from BitVec.and_allOnes (x := w)]

end Sys2Proof
end

