-- ==== Sys2Proof/Laws/State.lean ====
section
/-! SUPPORT. What each named update leaves in each field: one lemma per field per update, true by rfl. -/

namespace Sys2Proof.Machine

variable (s : State)

/-! ### setReg -/

@[simp] theorem State.setReg_V (x : Nibble) (b : Byte) : (s.setReg x b).V = s.V.set x.toNat b x.isLt := rfl
@[simp] theorem State.setReg_I (x : Nibble) (b : Byte) : (s.setReg x b).I = s.I := rfl
@[simp] theorem State.setReg_pc (x : Nibble) (b : Byte) : (s.setReg x b).pc = s.pc := rfl
@[simp] theorem State.setReg_stack (x : Nibble) (b : Byte) : (s.setReg x b).stack = s.stack := rfl
@[simp] theorem State.setReg_sp (x : Nibble) (b : Byte) : (s.setReg x b).sp = s.sp := rfl
@[simp] theorem State.setReg_DT (x : Nibble) (b : Byte) : (s.setReg x b).DT = s.DT := rfl
@[simp] theorem State.setReg_ST (x : Nibble) (b : Byte) : (s.setReg x b).ST = s.ST := rfl
@[simp] theorem State.setReg_fb (x : Nibble) (b : Byte) : (s.setReg x b).fb = s.fb := rfl
@[simp] theorem State.setReg_keyState (x : Nibble) (b : Byte) : (s.setReg x b).keyState = s.keyState := rfl
@[simp] theorem State.setReg_mode (x : Nibble) (b : Byte) : (s.setReg x b).mode = s.mode := rfl
@[simp] theorem State.setReg_redrawPending (x : Nibble) (b : Byte) : (s.setReg x b).redrawPending = s.redrawPending := rfl
@[simp] theorem State.setReg_fault (x : Nibble) (b : Byte) : (s.setReg x b).fault = s.fault := rfl
@[simp] theorem State.setReg_memory (x : Nibble) (b : Byte) : (s.setReg x b).memory = s.memory := rfl
@[simp] theorem State.setReg_keySample (x : Nibble) (b : Byte) : (s.setReg x b).keySample = s.keySample := rfl
@[simp] theorem State.setReg_randByte (x : Nibble) (b : Byte) : (s.setReg x b).randByte = s.randByte := rfl
@[simp] theorem State.setReg_redrawOut (x : Nibble) (b : Byte) : (s.setReg x b).redrawOut = s.redrawOut := rfl
@[simp] theorem State.setReg_faultOut (x : Nibble) (b : Byte) : (s.setReg x b).faultOut = s.faultOut := rfl
@[simp] theorem State.setReg_inputs (x : Nibble) (b : Byte) : (s.setReg x b).inputs = s.inputs := rfl
@[simp] theorem State.setReg_activations (x : Nibble) (b : Byte) : (s.setReg x b).activations = s.activations := rfl
@[simp] theorem State.setReg_started (x : Nibble) (b : Byte) : (s.setReg x b).started = s.started := rfl

/-! ### setI -/

@[simp] theorem State.setI_V (v : Word) : (s.setI v).V = s.V := rfl
@[simp] theorem State.setI_I (v : Word) : (s.setI v).I = v := rfl
@[simp] theorem State.setI_pc (v : Word) : (s.setI v).pc = s.pc := rfl
@[simp] theorem State.setI_stack (v : Word) : (s.setI v).stack = s.stack := rfl
@[simp] theorem State.setI_sp (v : Word) : (s.setI v).sp = s.sp := rfl
@[simp] theorem State.setI_DT (v : Word) : (s.setI v).DT = s.DT := rfl
@[simp] theorem State.setI_ST (v : Word) : (s.setI v).ST = s.ST := rfl
@[simp] theorem State.setI_fb (v : Word) : (s.setI v).fb = s.fb := rfl
@[simp] theorem State.setI_keyState (v : Word) : (s.setI v).keyState = s.keyState := rfl
@[simp] theorem State.setI_mode (v : Word) : (s.setI v).mode = s.mode := rfl
@[simp] theorem State.setI_redrawPending (v : Word) : (s.setI v).redrawPending = s.redrawPending := rfl
@[simp] theorem State.setI_fault (v : Word) : (s.setI v).fault = s.fault := rfl
@[simp] theorem State.setI_memory (v : Word) : (s.setI v).memory = s.memory := rfl
@[simp] theorem State.setI_keySample (v : Word) : (s.setI v).keySample = s.keySample := rfl
@[simp] theorem State.setI_randByte (v : Word) : (s.setI v).randByte = s.randByte := rfl
@[simp] theorem State.setI_redrawOut (v : Word) : (s.setI v).redrawOut = s.redrawOut := rfl
@[simp] theorem State.setI_faultOut (v : Word) : (s.setI v).faultOut = s.faultOut := rfl
@[simp] theorem State.setI_inputs (v : Word) : (s.setI v).inputs = s.inputs := rfl
@[simp] theorem State.setI_activations (v : Word) : (s.setI v).activations = s.activations := rfl
@[simp] theorem State.setI_started (v : Word) : (s.setI v).started = s.started := rfl

/-! ### setPc -/

@[simp] theorem State.setPc_V (a : Addr) : (s.setPc a).V = s.V := rfl
@[simp] theorem State.setPc_I (a : Addr) : (s.setPc a).I = s.I := rfl
@[simp] theorem State.setPc_pc (a : Addr) : (s.setPc a).pc = a := rfl
@[simp] theorem State.setPc_stack (a : Addr) : (s.setPc a).stack = s.stack := rfl
@[simp] theorem State.setPc_sp (a : Addr) : (s.setPc a).sp = s.sp := rfl
@[simp] theorem State.setPc_DT (a : Addr) : (s.setPc a).DT = s.DT := rfl
@[simp] theorem State.setPc_ST (a : Addr) : (s.setPc a).ST = s.ST := rfl
@[simp] theorem State.setPc_fb (a : Addr) : (s.setPc a).fb = s.fb := rfl
@[simp] theorem State.setPc_keyState (a : Addr) : (s.setPc a).keyState = s.keyState := rfl
@[simp] theorem State.setPc_mode (a : Addr) : (s.setPc a).mode = s.mode := rfl
@[simp] theorem State.setPc_redrawPending (a : Addr) : (s.setPc a).redrawPending = s.redrawPending := rfl
@[simp] theorem State.setPc_fault (a : Addr) : (s.setPc a).fault = s.fault := rfl
@[simp] theorem State.setPc_memory (a : Addr) : (s.setPc a).memory = s.memory := rfl
@[simp] theorem State.setPc_keySample (a : Addr) : (s.setPc a).keySample = s.keySample := rfl
@[simp] theorem State.setPc_randByte (a : Addr) : (s.setPc a).randByte = s.randByte := rfl
@[simp] theorem State.setPc_redrawOut (a : Addr) : (s.setPc a).redrawOut = s.redrawOut := rfl
@[simp] theorem State.setPc_faultOut (a : Addr) : (s.setPc a).faultOut = s.faultOut := rfl
@[simp] theorem State.setPc_inputs (a : Addr) : (s.setPc a).inputs = s.inputs := rfl
@[simp] theorem State.setPc_activations (a : Addr) : (s.setPc a).activations = s.activations := rfl
@[simp] theorem State.setPc_started (a : Addr) : (s.setPc a).started = s.started := rfl

/-! ### setDT -/

@[simp] theorem State.setDT_V (v : Byte) : (s.setDT v).V = s.V := rfl
@[simp] theorem State.setDT_I (v : Byte) : (s.setDT v).I = s.I := rfl
@[simp] theorem State.setDT_pc (v : Byte) : (s.setDT v).pc = s.pc := rfl
@[simp] theorem State.setDT_stack (v : Byte) : (s.setDT v).stack = s.stack := rfl
@[simp] theorem State.setDT_sp (v : Byte) : (s.setDT v).sp = s.sp := rfl
@[simp] theorem State.setDT_DT (v : Byte) : (s.setDT v).DT = v := rfl
@[simp] theorem State.setDT_ST (v : Byte) : (s.setDT v).ST = s.ST := rfl
@[simp] theorem State.setDT_fb (v : Byte) : (s.setDT v).fb = s.fb := rfl
@[simp] theorem State.setDT_keyState (v : Byte) : (s.setDT v).keyState = s.keyState := rfl
@[simp] theorem State.setDT_mode (v : Byte) : (s.setDT v).mode = s.mode := rfl
@[simp] theorem State.setDT_redrawPending (v : Byte) : (s.setDT v).redrawPending = s.redrawPending := rfl
@[simp] theorem State.setDT_fault (v : Byte) : (s.setDT v).fault = s.fault := rfl
@[simp] theorem State.setDT_memory (v : Byte) : (s.setDT v).memory = s.memory := rfl
@[simp] theorem State.setDT_keySample (v : Byte) : (s.setDT v).keySample = s.keySample := rfl
@[simp] theorem State.setDT_randByte (v : Byte) : (s.setDT v).randByte = s.randByte := rfl
@[simp] theorem State.setDT_redrawOut (v : Byte) : (s.setDT v).redrawOut = s.redrawOut := rfl
@[simp] theorem State.setDT_faultOut (v : Byte) : (s.setDT v).faultOut = s.faultOut := rfl
@[simp] theorem State.setDT_inputs (v : Byte) : (s.setDT v).inputs = s.inputs := rfl
@[simp] theorem State.setDT_activations (v : Byte) : (s.setDT v).activations = s.activations := rfl
@[simp] theorem State.setDT_started (v : Byte) : (s.setDT v).started = s.started := rfl

/-! ### setST -/

@[simp] theorem State.setST_V (v : Byte) : (s.setST v).V = s.V := rfl
@[simp] theorem State.setST_I (v : Byte) : (s.setST v).I = s.I := rfl
@[simp] theorem State.setST_pc (v : Byte) : (s.setST v).pc = s.pc := rfl
@[simp] theorem State.setST_stack (v : Byte) : (s.setST v).stack = s.stack := rfl
@[simp] theorem State.setST_sp (v : Byte) : (s.setST v).sp = s.sp := rfl
@[simp] theorem State.setST_DT (v : Byte) : (s.setST v).DT = s.DT := rfl
@[simp] theorem State.setST_ST (v : Byte) : (s.setST v).ST = v := rfl
@[simp] theorem State.setST_fb (v : Byte) : (s.setST v).fb = s.fb := rfl
@[simp] theorem State.setST_keyState (v : Byte) : (s.setST v).keyState = s.keyState := rfl
@[simp] theorem State.setST_mode (v : Byte) : (s.setST v).mode = s.mode := rfl
@[simp] theorem State.setST_redrawPending (v : Byte) : (s.setST v).redrawPending = s.redrawPending := rfl
@[simp] theorem State.setST_fault (v : Byte) : (s.setST v).fault = s.fault := rfl
@[simp] theorem State.setST_memory (v : Byte) : (s.setST v).memory = s.memory := rfl
@[simp] theorem State.setST_keySample (v : Byte) : (s.setST v).keySample = s.keySample := rfl
@[simp] theorem State.setST_randByte (v : Byte) : (s.setST v).randByte = s.randByte := rfl
@[simp] theorem State.setST_redrawOut (v : Byte) : (s.setST v).redrawOut = s.redrawOut := rfl
@[simp] theorem State.setST_faultOut (v : Byte) : (s.setST v).faultOut = s.faultOut := rfl
@[simp] theorem State.setST_inputs (v : Byte) : (s.setST v).inputs = s.inputs := rfl
@[simp] theorem State.setST_activations (v : Byte) : (s.setST v).activations = s.activations := rfl
@[simp] theorem State.setST_started (v : Byte) : (s.setST v).started = s.started := rfl

/-! ### setMode -/

@[simp] theorem State.setMode_V (m : Mode) : (s.setMode m).V = s.V := rfl
@[simp] theorem State.setMode_I (m : Mode) : (s.setMode m).I = s.I := rfl
@[simp] theorem State.setMode_pc (m : Mode) : (s.setMode m).pc = s.pc := rfl
@[simp] theorem State.setMode_stack (m : Mode) : (s.setMode m).stack = s.stack := rfl
@[simp] theorem State.setMode_sp (m : Mode) : (s.setMode m).sp = s.sp := rfl
@[simp] theorem State.setMode_DT (m : Mode) : (s.setMode m).DT = s.DT := rfl
@[simp] theorem State.setMode_ST (m : Mode) : (s.setMode m).ST = s.ST := rfl
@[simp] theorem State.setMode_fb (m : Mode) : (s.setMode m).fb = s.fb := rfl
@[simp] theorem State.setMode_keyState (m : Mode) : (s.setMode m).keyState = s.keyState := rfl
@[simp] theorem State.setMode_mode (m : Mode) : (s.setMode m).mode = m := rfl
@[simp] theorem State.setMode_redrawPending (m : Mode) : (s.setMode m).redrawPending = s.redrawPending := rfl
@[simp] theorem State.setMode_fault (m : Mode) : (s.setMode m).fault = s.fault := rfl
@[simp] theorem State.setMode_memory (m : Mode) : (s.setMode m).memory = s.memory := rfl
@[simp] theorem State.setMode_keySample (m : Mode) : (s.setMode m).keySample = s.keySample := rfl
@[simp] theorem State.setMode_randByte (m : Mode) : (s.setMode m).randByte = s.randByte := rfl
@[simp] theorem State.setMode_redrawOut (m : Mode) : (s.setMode m).redrawOut = s.redrawOut := rfl
@[simp] theorem State.setMode_faultOut (m : Mode) : (s.setMode m).faultOut = s.faultOut := rfl
@[simp] theorem State.setMode_inputs (m : Mode) : (s.setMode m).inputs = s.inputs := rfl
@[simp] theorem State.setMode_activations (m : Mode) : (s.setMode m).activations = s.activations := rfl
@[simp] theorem State.setMode_started (m : Mode) : (s.setMode m).started = s.started := rfl

/-! ### setScreen -/

@[simp] theorem State.setScreen_V (f : FrameBuffer) : (s.setScreen f).V = s.V := rfl
@[simp] theorem State.setScreen_I (f : FrameBuffer) : (s.setScreen f).I = s.I := rfl
@[simp] theorem State.setScreen_pc (f : FrameBuffer) : (s.setScreen f).pc = s.pc := rfl
@[simp] theorem State.setScreen_stack (f : FrameBuffer) : (s.setScreen f).stack = s.stack := rfl
@[simp] theorem State.setScreen_sp (f : FrameBuffer) : (s.setScreen f).sp = s.sp := rfl
@[simp] theorem State.setScreen_DT (f : FrameBuffer) : (s.setScreen f).DT = s.DT := rfl
@[simp] theorem State.setScreen_ST (f : FrameBuffer) : (s.setScreen f).ST = s.ST := rfl
@[simp] theorem State.setScreen_fb (f : FrameBuffer) : (s.setScreen f).fb = f := rfl
@[simp] theorem State.setScreen_keyState (f : FrameBuffer) : (s.setScreen f).keyState = s.keyState := rfl
@[simp] theorem State.setScreen_mode (f : FrameBuffer) : (s.setScreen f).mode = s.mode := rfl
@[simp] theorem State.setScreen_redrawPending (f : FrameBuffer) : (s.setScreen f).redrawPending = true := rfl
@[simp] theorem State.setScreen_fault (f : FrameBuffer) : (s.setScreen f).fault = s.fault := rfl
@[simp] theorem State.setScreen_memory (f : FrameBuffer) : (s.setScreen f).memory = s.memory := rfl
@[simp] theorem State.setScreen_keySample (f : FrameBuffer) : (s.setScreen f).keySample = s.keySample := rfl
@[simp] theorem State.setScreen_randByte (f : FrameBuffer) : (s.setScreen f).randByte = s.randByte := rfl
@[simp] theorem State.setScreen_redrawOut (f : FrameBuffer) : (s.setScreen f).redrawOut = s.redrawOut := rfl
@[simp] theorem State.setScreen_faultOut (f : FrameBuffer) : (s.setScreen f).faultOut = s.faultOut := rfl
@[simp] theorem State.setScreen_inputs (f : FrameBuffer) : (s.setScreen f).inputs = s.inputs := rfl
@[simp] theorem State.setScreen_activations (f : FrameBuffer) : (s.setScreen f).activations = s.activations := rfl
@[simp] theorem State.setScreen_started (f : FrameBuffer) : (s.setScreen f).started = s.started := rfl

/-! ### raiseFault -/

@[simp] theorem State.raiseFault_V (c : FaultCode) : (s.raiseFault c).V = s.V := rfl
@[simp] theorem State.raiseFault_I (c : FaultCode) : (s.raiseFault c).I = s.I := rfl
@[simp] theorem State.raiseFault_pc (c : FaultCode) : (s.raiseFault c).pc = s.pc := rfl
@[simp] theorem State.raiseFault_stack (c : FaultCode) : (s.raiseFault c).stack = s.stack := rfl
@[simp] theorem State.raiseFault_sp (c : FaultCode) : (s.raiseFault c).sp = s.sp := rfl
@[simp] theorem State.raiseFault_DT (c : FaultCode) : (s.raiseFault c).DT = s.DT := rfl
@[simp] theorem State.raiseFault_ST (c : FaultCode) : (s.raiseFault c).ST = s.ST := rfl
@[simp] theorem State.raiseFault_fb (c : FaultCode) : (s.raiseFault c).fb = s.fb := rfl
@[simp] theorem State.raiseFault_keyState (c : FaultCode) : (s.raiseFault c).keyState = s.keyState := rfl
@[simp] theorem State.raiseFault_mode (c : FaultCode) : (s.raiseFault c).mode = s.mode := rfl
@[simp] theorem State.raiseFault_redrawPending (c : FaultCode) : (s.raiseFault c).redrawPending = false := rfl
@[simp] theorem State.raiseFault_fault (c : FaultCode) : (s.raiseFault c).fault = c := rfl
@[simp] theorem State.raiseFault_memory (c : FaultCode) : (s.raiseFault c).memory = s.memory := rfl
@[simp] theorem State.raiseFault_keySample (c : FaultCode) : (s.raiseFault c).keySample = s.keySample := rfl
@[simp] theorem State.raiseFault_randByte (c : FaultCode) : (s.raiseFault c).randByte = s.randByte := rfl
@[simp] theorem State.raiseFault_redrawOut (c : FaultCode) : (s.raiseFault c).redrawOut = s.redrawOut := rfl
@[simp] theorem State.raiseFault_faultOut (c : FaultCode) : (s.raiseFault c).faultOut = s.faultOut := rfl
@[simp] theorem State.raiseFault_inputs (c : FaultCode) : (s.raiseFault c).inputs = s.inputs := rfl
@[simp] theorem State.raiseFault_activations (c : FaultCode) : (s.raiseFault c).activations = s.activations := rfl
@[simp] theorem State.raiseFault_started (c : FaultCode) : (s.raiseFault c).started = s.started := rfl

/-! ### writeByte -/

@[simp] theorem State.writeByte_V (a : Nat) (b : Byte) : (s.writeByte a b).V = s.V := rfl
@[simp] theorem State.writeByte_I (a : Nat) (b : Byte) : (s.writeByte a b).I = s.I := rfl
@[simp] theorem State.writeByte_pc (a : Nat) (b : Byte) : (s.writeByte a b).pc = s.pc := rfl
@[simp] theorem State.writeByte_stack (a : Nat) (b : Byte) : (s.writeByte a b).stack = s.stack := rfl
@[simp] theorem State.writeByte_sp (a : Nat) (b : Byte) : (s.writeByte a b).sp = s.sp := rfl
@[simp] theorem State.writeByte_DT (a : Nat) (b : Byte) : (s.writeByte a b).DT = s.DT := rfl
@[simp] theorem State.writeByte_ST (a : Nat) (b : Byte) : (s.writeByte a b).ST = s.ST := rfl
@[simp] theorem State.writeByte_fb (a : Nat) (b : Byte) : (s.writeByte a b).fb = s.fb := rfl
@[simp] theorem State.writeByte_keyState (a : Nat) (b : Byte) : (s.writeByte a b).keyState = s.keyState := rfl
@[simp] theorem State.writeByte_mode (a : Nat) (b : Byte) : (s.writeByte a b).mode = s.mode := rfl
@[simp] theorem State.writeByte_redrawPending (a : Nat) (b : Byte) : (s.writeByte a b).redrawPending = s.redrawPending := rfl
@[simp] theorem State.writeByte_fault (a : Nat) (b : Byte) : (s.writeByte a b).fault = s.fault := rfl
@[simp] theorem State.writeByte_memory (a : Nat) (b : Byte) : (s.writeByte a b).memory = Memory.put s.memory (wrap12 a).toNat b := rfl
@[simp] theorem State.writeByte_keySample (a : Nat) (b : Byte) : (s.writeByte a b).keySample = s.keySample := rfl
@[simp] theorem State.writeByte_randByte (a : Nat) (b : Byte) : (s.writeByte a b).randByte = s.randByte := rfl
@[simp] theorem State.writeByte_redrawOut (a : Nat) (b : Byte) : (s.writeByte a b).redrawOut = s.redrawOut := rfl
@[simp] theorem State.writeByte_faultOut (a : Nat) (b : Byte) : (s.writeByte a b).faultOut = s.faultOut := rfl
@[simp] theorem State.writeByte_inputs (a : Nat) (b : Byte) : (s.writeByte a b).inputs = s.inputs := rfl
@[simp] theorem State.writeByte_activations (a : Nat) (b : Byte) : (s.writeByte a b).activations = s.activations := rfl
@[simp] theorem State.writeByte_started (a : Nat) (b : Byte) : (s.writeByte a b).started = s.started := rfl

/-! ### activate -/

@[simp] theorem State.activate_V : s.activate.V = s.V := rfl
@[simp] theorem State.activate_I : s.activate.I = s.I := rfl
@[simp] theorem State.activate_pc : s.activate.pc = s.pc := rfl
@[simp] theorem State.activate_stack : s.activate.stack = s.stack := rfl
@[simp] theorem State.activate_sp : s.activate.sp = s.sp := rfl
@[simp] theorem State.activate_DT : s.activate.DT = s.DT := rfl
@[simp] theorem State.activate_ST : s.activate.ST = s.ST := rfl
@[simp] theorem State.activate_fb : s.activate.fb = s.fb := rfl
@[simp] theorem State.activate_keyState : s.activate.keyState = s.keyState := rfl
@[simp] theorem State.activate_mode : s.activate.mode = s.mode := rfl
@[simp] theorem State.activate_redrawPending : s.activate.redrawPending = s.redrawPending := rfl
@[simp] theorem State.activate_fault : s.activate.fault = s.fault := rfl
@[simp] theorem State.activate_memory : s.activate.memory = s.memory := rfl
@[simp] theorem State.activate_keySample : s.activate.keySample = s.nextInput.keys := rfl
@[simp] theorem State.activate_randByte : s.activate.randByte = s.nextInput.rand := rfl
@[simp] theorem State.activate_redrawOut : s.activate.redrawOut = s.redrawOut := rfl
@[simp] theorem State.activate_faultOut : s.activate.faultOut = s.faultOut := rfl
@[simp] theorem State.activate_inputs : s.activate.inputs = s.inputs.tail := rfl
@[simp] theorem State.activate_activations : s.activate.activations = s.activations + 1 := rfl
@[simp] theorem State.activate_started : s.activate.started = true := rfl

/-! ### sampleKeys -/

@[simp] theorem State.sampleKeys_V : s.sampleKeys.V = s.V := rfl
@[simp] theorem State.sampleKeys_I : s.sampleKeys.I = s.I := rfl
@[simp] theorem State.sampleKeys_pc : s.sampleKeys.pc = s.pc := rfl
@[simp] theorem State.sampleKeys_stack : s.sampleKeys.stack = s.stack := rfl
@[simp] theorem State.sampleKeys_sp : s.sampleKeys.sp = s.sp := rfl
@[simp] theorem State.sampleKeys_DT : s.sampleKeys.DT = s.DT := rfl
@[simp] theorem State.sampleKeys_ST : s.sampleKeys.ST = s.ST := rfl
@[simp] theorem State.sampleKeys_fb : s.sampleKeys.fb = s.fb := rfl
@[simp] theorem State.sampleKeys_keyState : s.sampleKeys.keyState = s.keySample := rfl
@[simp] theorem State.sampleKeys_mode : s.sampleKeys.mode = s.mode := rfl
@[simp] theorem State.sampleKeys_redrawPending : s.sampleKeys.redrawPending = s.redrawPending := rfl
@[simp] theorem State.sampleKeys_fault : s.sampleKeys.fault = s.fault := rfl
@[simp] theorem State.sampleKeys_memory : s.sampleKeys.memory = s.memory := rfl
@[simp] theorem State.sampleKeys_keySample : s.sampleKeys.keySample = s.keySample := rfl
@[simp] theorem State.sampleKeys_randByte : s.sampleKeys.randByte = s.randByte := rfl
@[simp] theorem State.sampleKeys_redrawOut : s.sampleKeys.redrawOut = s.redrawOut := rfl
@[simp] theorem State.sampleKeys_faultOut : s.sampleKeys.faultOut = s.faultOut := rfl
@[simp] theorem State.sampleKeys_inputs : s.sampleKeys.inputs = s.inputs := rfl
@[simp] theorem State.sampleKeys_activations : s.sampleKeys.activations = s.activations := rfl
@[simp] theorem State.sampleKeys_started : s.sampleKeys.started = s.started := rfl

/-! ### clearRedraw -/

@[simp] theorem State.clearRedraw_V : s.clearRedraw.V = s.V := rfl
@[simp] theorem State.clearRedraw_I : s.clearRedraw.I = s.I := rfl
@[simp] theorem State.clearRedraw_pc : s.clearRedraw.pc = s.pc := rfl
@[simp] theorem State.clearRedraw_stack : s.clearRedraw.stack = s.stack := rfl
@[simp] theorem State.clearRedraw_sp : s.clearRedraw.sp = s.sp := rfl
@[simp] theorem State.clearRedraw_DT : s.clearRedraw.DT = s.DT := rfl
@[simp] theorem State.clearRedraw_ST : s.clearRedraw.ST = s.ST := rfl
@[simp] theorem State.clearRedraw_fb : s.clearRedraw.fb = s.fb := rfl
@[simp] theorem State.clearRedraw_keyState : s.clearRedraw.keyState = s.keyState := rfl
@[simp] theorem State.clearRedraw_mode : s.clearRedraw.mode = s.mode := rfl
@[simp] theorem State.clearRedraw_redrawPending : s.clearRedraw.redrawPending = false := rfl
@[simp] theorem State.clearRedraw_fault : s.clearRedraw.fault = s.fault := rfl
@[simp] theorem State.clearRedraw_memory : s.clearRedraw.memory = s.memory := rfl
@[simp] theorem State.clearRedraw_keySample : s.clearRedraw.keySample = s.keySample := rfl
@[simp] theorem State.clearRedraw_randByte : s.clearRedraw.randByte = s.randByte := rfl
@[simp] theorem State.clearRedraw_redrawOut : s.clearRedraw.redrawOut = s.redrawOut := rfl
@[simp] theorem State.clearRedraw_faultOut : s.clearRedraw.faultOut = s.faultOut := rfl
@[simp] theorem State.clearRedraw_inputs : s.clearRedraw.inputs = s.inputs := rfl
@[simp] theorem State.clearRedraw_activations : s.clearRedraw.activations = s.activations := rfl
@[simp] theorem State.clearRedraw_started : s.clearRedraw.started = s.started := rfl

/-! ### tickTimers -/

@[simp] theorem State.tickTimers_V : s.tickTimers.V = s.V := rfl
@[simp] theorem State.tickTimers_I : s.tickTimers.I = s.I := rfl
@[simp] theorem State.tickTimers_pc : s.tickTimers.pc = s.pc := rfl
@[simp] theorem State.tickTimers_stack : s.tickTimers.stack = s.stack := rfl
@[simp] theorem State.tickTimers_sp : s.tickTimers.sp = s.sp := rfl
@[simp] theorem State.tickTimers_DT : s.tickTimers.DT = tick s.DT := rfl
@[simp] theorem State.tickTimers_ST : s.tickTimers.ST = tick s.ST := rfl
@[simp] theorem State.tickTimers_fb : s.tickTimers.fb = s.fb := rfl
@[simp] theorem State.tickTimers_keyState : s.tickTimers.keyState = s.keyState := rfl
@[simp] theorem State.tickTimers_mode : s.tickTimers.mode = s.mode := rfl
@[simp] theorem State.tickTimers_redrawPending : s.tickTimers.redrawPending = s.redrawPending := rfl
@[simp] theorem State.tickTimers_fault : s.tickTimers.fault = s.fault := rfl
@[simp] theorem State.tickTimers_memory : s.tickTimers.memory = s.memory := rfl
@[simp] theorem State.tickTimers_keySample : s.tickTimers.keySample = s.keySample := rfl
@[simp] theorem State.tickTimers_randByte : s.tickTimers.randByte = s.randByte := rfl
@[simp] theorem State.tickTimers_redrawOut : s.tickTimers.redrawOut = s.redrawOut := rfl
@[simp] theorem State.tickTimers_faultOut : s.tickTimers.faultOut = s.faultOut := rfl
@[simp] theorem State.tickTimers_inputs : s.tickTimers.inputs = s.inputs := rfl
@[simp] theorem State.tickTimers_activations : s.tickTimers.activations = s.activations := rfl
@[simp] theorem State.tickTimers_started : s.tickTimers.started = s.started := rfl

/-! ### giveBack -/

@[simp] theorem State.giveBack_V (r : Bool) : (s.giveBack r).V = s.V := rfl
@[simp] theorem State.giveBack_I (r : Bool) : (s.giveBack r).I = s.I := rfl
@[simp] theorem State.giveBack_pc (r : Bool) : (s.giveBack r).pc = s.pc := rfl
@[simp] theorem State.giveBack_stack (r : Bool) : (s.giveBack r).stack = s.stack := rfl
@[simp] theorem State.giveBack_sp (r : Bool) : (s.giveBack r).sp = s.sp := rfl
@[simp] theorem State.giveBack_DT (r : Bool) : (s.giveBack r).DT = s.DT := rfl
@[simp] theorem State.giveBack_ST (r : Bool) : (s.giveBack r).ST = s.ST := rfl
@[simp] theorem State.giveBack_fb (r : Bool) : (s.giveBack r).fb = s.fb := rfl
@[simp] theorem State.giveBack_keyState (r : Bool) : (s.giveBack r).keyState = s.keyState := rfl
@[simp] theorem State.giveBack_mode (r : Bool) : (s.giveBack r).mode = s.mode := rfl
@[simp] theorem State.giveBack_redrawPending (r : Bool) : (s.giveBack r).redrawPending = s.redrawPending := rfl
@[simp] theorem State.giveBack_fault (r : Bool) : (s.giveBack r).fault = s.fault := rfl
@[simp] theorem State.giveBack_memory (r : Bool) : (s.giveBack r).memory = s.memory := rfl
@[simp] theorem State.giveBack_keySample (r : Bool) : (s.giveBack r).keySample = s.keySample := rfl
@[simp] theorem State.giveBack_randByte (r : Bool) : (s.giveBack r).randByte = s.randByte := rfl
@[simp] theorem State.giveBack_redrawOut (r : Bool) : (s.giveBack r).redrawOut = r := rfl
@[simp] theorem State.giveBack_faultOut (r : Bool) : (s.giveBack r).faultOut = s.fault := rfl
@[simp] theorem State.giveBack_inputs (r : Bool) : (s.giveBack r).inputs = s.inputs := rfl
@[simp] theorem State.giveBack_activations (r : Bool) : (s.giveBack r).activations = s.activations := rfl
@[simp] theorem State.giveBack_started (r : Bool) : (s.giveBack r).started = s.started := rfl

/-! ### Composed updates -/

@[simp] theorem State.advance_eq : s.advance = s.setPc (wrap12 (s.pc.toNat + 2)) := rfl

@[simp] theorem State.skipIf_eq (c : Bool) :
    s.skipIf c = s.setPc (if c then wrap12 (s.pc.toNat + 4) else wrap12 (s.pc.toNat + 2)) := rfl

@[simp] theorem State.prepare_eq : s.prepare = s.sampleKeys.clearRedraw.tickTimers := rfl

@[simp] theorem State.setFlagThenReg_eq (x : Nibble) (f : Bool) (v : Byte) :
    s.setFlagThenReg x f v = (s.setReg VF (flagByte f)).setReg x v := rfl

end Sys2Proof.Machine
end

