-- ==== Sys2Proof/Laws/Memory.lean ====
section
/-! SUPPORT. Memory: reads after writes, and that every memory operation keeps the canonical form. -/

namespace Sys2Proof.Machine

theorem Memory.get_put (m : Memory) (a b : Nat) (v : Byte) :
    Memory.get (Memory.put m a v) b = if b = a then some v else Memory.get m b := by
  induction m with
  | nil => simp [Memory.put, Memory.get]
  | cons c m ih =>
    obtain ⟨k, c⟩ := c
    by_cases h1 : a < k
    · by_cases h : b = a <;> simp [Memory.put, Memory.get, h1, h]
    · by_cases h2 : a = k
      · subst h2
        by_cases h : b = a <;> simp [Memory.put, Memory.get, h]
      · by_cases h : b = k
        · simp [Memory.put, Memory.get, h1, h2, h]
          omega
        · simp [Memory.put, Memory.get, h1, h2, h, ih]

/-- Whatever a put leaves in the list was there before or is the byte written. -/
theorem Memory.mem_put {m : Memory} {a : Nat} {v : Byte} {c : Host.Cell} (h : c ∈ Memory.put m a v) :
    c = (a, v) ∨ c ∈ m := by
  induction m with
  | nil => simpa [Memory.put] using h
  | cons d m ih =>
    obtain ⟨k, d⟩ := d
    by_cases h1 : a < k
    · simpa [Memory.put, h1] using h
    · by_cases h2 : a = k
      · subst h2
        simp only [Memory.put, Nat.lt_irrefl, if_false, if_true, List.mem_cons] at h
        exact h.imp_right fun h => by simp [h]
      · simp only [Memory.put, h1, h2, if_false, List.mem_cons] at h
        simp only [List.mem_cons]
        rcases h with h | h
        · exact .inr (.inl h)
        · rcases ih h with h | h
          · exact .inl h
          · exact .inr (.inr h)

/-- A write inside the address space keeps the canonical form. -/
theorem Memory.wf_put {m : Memory} (hm : Memory.wf m) {a : Nat} (ha : a < 4096) (v : Byte) :
    Memory.wf (Memory.put m a v) := by
  refine ⟨?_, fun c hc => ?_⟩
  · have hp := hm.1
    clear hm
    induction m with
    | nil => simp [Memory.put]
    | cons d m ih =>
      obtain ⟨k, d⟩ := d
      rw [List.pairwise_cons] at hp
      by_cases h1 : a < k
      · simp only [Memory.put, h1, if_true]
        refine List.pairwise_cons.2 ⟨fun c hc => ?_, List.pairwise_cons.2 hp⟩
        rcases List.mem_cons.1 hc with rfl | hc
        · exact h1
        · exact Nat.lt_trans h1 (hp.1 c hc)
      · by_cases h2 : a = k
        · subst h2
          simp only [Memory.put, Nat.lt_irrefl, if_false, if_true]
          exact List.pairwise_cons.2 ⟨fun c hc => hp.1 c hc, hp.2⟩
        · simp only [Memory.put, h1, h2, if_false]
          refine List.pairwise_cons.2 ⟨fun c hc => ?_, ih hp.2⟩
          rcases Memory.mem_put hc with rfl | hc
          · show k < a
            omega
          · exact hp.1 c hc
  · rcases Memory.mem_put hc with rfl | hc
    · exact ha
    · exact hm.2 c hc

theorem wrap12_lt (n : Nat) : (wrap12 n).toNat < 4096 := (wrap12 n).isLt

@[simp] theorem wrap12_toNat (n : Nat) : (wrap12 n).toNat = n % 4096 := by simp [wrap12]

theorem wrap12_eq_iff (a b : Nat) : wrap12 a = wrap12 b ↔ a % 4096 = b % 4096 := by
  rw [← BitVec.toNat_inj, wrap12_toNat, wrap12_toNat]

/-- A store keeps the canonical form. -/
theorem State.writeByte_wf {s : State} (h : Memory.wf s.memory) (a : Nat) (b : Byte) :
    Memory.wf (s.writeByte a b).memory := Memory.wf_put h (wrap12_lt a) b

/-- A byte read depends on memory alone. -/
theorem State.readByte_congr {s t : State} (h : t.memory = s.memory) (a : Nat) : t.readByte a = s.readByte a := by
  simp only [State.readByte, h]

/-- A read after a store: the byte stored at its own address (modulo 4096), any other byte as before. -/
theorem State.readByte_writeByte (s : State) (a c : Nat) (b : Byte) :
    (s.writeByte a b).readByte c = if wrap12 c = wrap12 a then b else s.readByte c := by
  simp only [State.readByte, State.writeByte, Memory.get_put, BitVec.toNat_inj]
  split <;> simp

theorem State.writeBytes_wf (bs : List Byte) : ∀ {s : State} (_ : Memory.wf s.memory) (a : Nat),
    Memory.wf (s.writeBytes a bs).memory := by
  induction bs with
  | nil => exact fun h _ => h
  | cons b bs ih => exact fun h a => ih (State.writeByte_wf h a b) (a + 1)

/-- Storing bytes writes nothing but memory. -/
theorem State.writeBytes_eq (bs : List Byte) : ∀ (s : State) (a : Nat),
    s.writeBytes a bs = { s with memory := (s.writeBytes a bs).memory } := by
  induction bs with
  | nil => exact fun _ _ => rfl
  | cons b bs ih =>
    intro s a
    simp only [State.writeBytes]
    rw [ih]
    rfl

/-- A byte outside the bytes stored reads as before. -/
theorem State.readByte_writeBytes_of_ne (bs : List Byte) : ∀ (s : State) (a c : Nat),
    (∀ j < bs.length, wrap12 c ≠ wrap12 (a + j)) → (s.writeBytes a bs).readByte c = s.readByte c := by
  induction bs with
  | nil => exact fun _ _ _ _ => rfl
  | cons b bs ih =>
    intro s a c h
    simp only [State.writeBytes]
    rw [ih _ _ _ fun j hj => ?_, State.readByte_writeByte, if_neg]
    · exact h 0 (by simp)
    · rw [Nat.add_assoc, Nat.add_comm 1 j]
      exact h (j + 1) (by simpa using hj)

/-- Each byte stored reads back, if they do not overlap round the end of memory. -/
theorem State.readByte_writeBytes (bs : List Byte) : ∀ (s : State) (a j : Nat) (hj : j < bs.length),
    bs.length ≤ 4096 → (s.writeBytes a bs).readByte (a + j) = bs[j] := by
  induction bs with
  | nil => intro s a j hj; simp at hj
  | cons b bs ih =>
    intro s a j hj hl
    simp only [State.writeBytes]
    simp only [List.length_cons] at hj hl
    cases j with
    | zero =>
      rw [State.readByte_writeBytes_of_ne, State.readByte_writeByte]
      · simp
      · intro i hi h
        rw [wrap12_eq_iff] at h
        omega
    | succ j =>
      rw [show a + (j + 1) = a + 1 + j by omega, ih _ _ j (by omega) (by omega), List.getElem_cons_succ]

@[simp] theorem State.length_readBytes (s : State) (n : Nat) : ∀ a, (s.readBytes a n).length = n := by
  induction n with
  | zero => exact fun _ => rfl
  | succ n ih => intro a; simp [State.readBytes, ih]

theorem State.getElem_readBytes (s : State) (n : Nat) : ∀ (a j : Nat) (h : j < (s.readBytes a n).length),
    (s.readBytes a n)[j] = s.readByte (a + j) := by
  induction n with
  | zero => intro a j h; simp [State.readBytes] at h
  | succ n ih =>
    intro a j h
    cases j with
    | zero => simp [State.readBytes]
    | succ j => simp [State.readBytes, ih, Nat.add_assoc, Nat.add_comm 1 j]

/-- The memory after reset is canonical: it lists nothing. -/
theorem reset_memory_wf : Memory.wf State.reset.memory := by simp [State.reset, Memory.wf]

end Sys2Proof.Machine
end

