-- ==== Sys2Proof/Laws/Registers.lean ====
section
/-! SUPPORT. The V registers and the return stack: what a read gives after each update. -/

namespace Sys2Proof.Machine

variable (s : State)

/-- A register after a register write. -/
theorem State.reg_setReg (x y : Nibble) (b : Byte) : (s.setReg x b).reg y = if y = x then b else s.reg y := by
  simp only [State.reg, State.setReg, Vector.getElem_set, BitVec.toNat_inj, eq_comm]

@[simp] theorem State.reg_setReg_same (x : Nibble) (b : Byte) : (s.setReg x b).reg x = b := by
  simp [State.reg_setReg]

theorem State.reg_setReg_of_ne {x y : Nibble} (h : y ≠ x) (b : Byte) : (s.setReg x b).reg y = s.reg y := by
  simp [State.reg_setReg, h]

/-- Registers depend on the field V alone. -/
theorem State.reg_congr {s t : State} (h : t.V = s.V) (y : Nibble) : t.reg y = s.reg y := by
  simp only [State.reg, h]

@[simp] theorem State.reg_setI (v : Word) (y : Nibble) : (s.setI v).reg y = s.reg y := rfl
@[simp] theorem State.reg_setPc (a : Addr) (y : Nibble) : (s.setPc a).reg y = s.reg y := rfl
@[simp] theorem State.reg_setDT (v : Byte) (y : Nibble) : (s.setDT v).reg y = s.reg y := rfl
@[simp] theorem State.reg_setST (v : Byte) (y : Nibble) : (s.setST v).reg y = s.reg y := rfl
@[simp] theorem State.reg_setMode (m : Mode) (y : Nibble) : (s.setMode m).reg y = s.reg y := rfl
@[simp] theorem State.reg_setScreen (f : FrameBuffer) (y : Nibble) : (s.setScreen f).reg y = s.reg y := rfl
@[simp] theorem State.reg_raiseFault (c : FaultCode) (y : Nibble) : (s.raiseFault c).reg y = s.reg y := rfl
@[simp] theorem State.reg_writeByte (a : Nat) (b : Byte) (y : Nibble) : (s.writeByte a b).reg y = s.reg y := rfl
@[simp] theorem State.reg_activate (y : Nibble) : s.activate.reg y = s.reg y := rfl
@[simp] theorem State.reg_sampleKeys (y : Nibble) : s.sampleKeys.reg y = s.reg y := rfl
@[simp] theorem State.reg_clearRedraw (y : Nibble) : s.clearRedraw.reg y = s.reg y := rfl
@[simp] theorem State.reg_tickTimers (y : Nibble) : s.tickTimers.reg y = s.reg y := rfl
@[simp] theorem State.reg_giveBack (r : Bool) (y : Nibble) : (s.giveBack r).reg y = s.reg y := rfl

@[simp] theorem State.reg_writeBytes (a : Nat) (bs : List Byte) (y : Nibble) : (s.writeBytes a bs).reg y = s.reg y := by
  rw [State.writeBytes_eq]
  rfl

@[simp] theorem State.readByte_setReg (x : Nibble) (b : Byte) (a : Nat) : (s.setReg x b).readByte a = s.readByte a := rfl
@[simp] theorem State.readByte_setI (v : Word) (a : Nat) : (s.setI v).readByte a = s.readByte a := rfl
@[simp] theorem State.readByte_setPc (p : Addr) (a : Nat) : (s.setPc p).readByte a = s.readByte a := rfl
@[simp] theorem State.readByte_setDT (v : Byte) (a : Nat) : (s.setDT v).readByte a = s.readByte a := rfl
@[simp] theorem State.readByte_setST (v : Byte) (a : Nat) : (s.setST v).readByte a = s.readByte a := rfl
@[simp] theorem State.readByte_setMode (m : Mode) (a : Nat) : (s.setMode m).readByte a = s.readByte a := rfl
@[simp] theorem State.readByte_setScreen (f : FrameBuffer) (a : Nat) : (s.setScreen f).readByte a = s.readByte a := rfl
@[simp] theorem State.readByte_raiseFault (c : FaultCode) (a : Nat) : (s.raiseFault c).readByte a = s.readByte a := rfl
@[simp] theorem State.readByte_loadRegs (b : Nat) (x : Nibble) (a : Nat) : (s.loadRegs b x).readByte a = s.readByte a := rfl
@[simp] theorem State.readByte_activate (a : Nat) : s.activate.readByte a = s.readByte a := rfl
@[simp] theorem State.readByte_sampleKeys (a : Nat) : s.sampleKeys.readByte a = s.readByte a := rfl
@[simp] theorem State.readByte_clearRedraw (a : Nat) : s.clearRedraw.readByte a = s.readByte a := rfl
@[simp] theorem State.readByte_tickTimers (a : Nat) : s.tickTimers.readByte a = s.readByte a := rfl
@[simp] theorem State.readByte_giveBack (r : Bool) (a : Nat) : (s.giveBack r).readByte a = s.readByte a := rfl

/-! ### Block stores and block loads leave every other field -/

@[simp] theorem State.writeBytes_V (a : Nat) (bs : List Byte) : (s.writeBytes a bs).V = s.V := by
  rw [State.writeBytes_eq]

@[simp] theorem State.writeBytes_I (a : Nat) (bs : List Byte) : (s.writeBytes a bs).I = s.I := by
  rw [State.writeBytes_eq]

@[simp] theorem State.writeBytes_pc (a : Nat) (bs : List Byte) : (s.writeBytes a bs).pc = s.pc := by
  rw [State.writeBytes_eq]

@[simp] theorem State.writeBytes_stack (a : Nat) (bs : List Byte) : (s.writeBytes a bs).stack = s.stack := by
  rw [State.writeBytes_eq]

@[simp] theorem State.writeBytes_sp (a : Nat) (bs : List Byte) : (s.writeBytes a bs).sp = s.sp := by
  rw [State.writeBytes_eq]

@[simp] theorem State.writeBytes_DT (a : Nat) (bs : List Byte) : (s.writeBytes a bs).DT = s.DT := by
  rw [State.writeBytes_eq]

@[simp] theorem State.writeBytes_ST (a : Nat) (bs : List Byte) : (s.writeBytes a bs).ST = s.ST := by
  rw [State.writeBytes_eq]

@[simp] theorem State.writeBytes_fb (a : Nat) (bs : List Byte) : (s.writeBytes a bs).fb = s.fb := by
  rw [State.writeBytes_eq]

@[simp] theorem State.writeBytes_keyState (a : Nat) (bs : List Byte) : (s.writeBytes a bs).keyState = s.keyState := by
  rw [State.writeBytes_eq]

@[simp] theorem State.writeBytes_mode (a : Nat) (bs : List Byte) : (s.writeBytes a bs).mode = s.mode := by
  rw [State.writeBytes_eq]

@[simp] theorem State.writeBytes_redrawPending (a : Nat) (bs : List Byte) : (s.writeBytes a bs).redrawPending = s.redrawPending := by
  rw [State.writeBytes_eq]

@[simp] theorem State.writeBytes_fault (a : Nat) (bs : List Byte) : (s.writeBytes a bs).fault = s.fault := by
  rw [State.writeBytes_eq]

@[simp] theorem State.writeBytes_keySample (a : Nat) (bs : List Byte) : (s.writeBytes a bs).keySample = s.keySample := by
  rw [State.writeBytes_eq]

@[simp] theorem State.writeBytes_randByte (a : Nat) (bs : List Byte) : (s.writeBytes a bs).randByte = s.randByte := by
  rw [State.writeBytes_eq]

@[simp] theorem State.writeBytes_redrawOut (a : Nat) (bs : List Byte) : (s.writeBytes a bs).redrawOut = s.redrawOut := by
  rw [State.writeBytes_eq]

@[simp] theorem State.writeBytes_faultOut (a : Nat) (bs : List Byte) : (s.writeBytes a bs).faultOut = s.faultOut := by
  rw [State.writeBytes_eq]

@[simp] theorem State.writeBytes_inputs (a : Nat) (bs : List Byte) : (s.writeBytes a bs).inputs = s.inputs := by
  rw [State.writeBytes_eq]

@[simp] theorem State.writeBytes_activations (a : Nat) (bs : List Byte) : (s.writeBytes a bs).activations = s.activations := by
  rw [State.writeBytes_eq]

@[simp] theorem State.writeBytes_started (a : Nat) (bs : List Byte) : (s.writeBytes a bs).started = s.started := by
  rw [State.writeBytes_eq]

@[simp] theorem State.loadRegs_I (b : Nat) (x : Nibble) : (s.loadRegs b x).I = s.I := rfl
@[simp] theorem State.loadRegs_pc (b : Nat) (x : Nibble) : (s.loadRegs b x).pc = s.pc := rfl
@[simp] theorem State.loadRegs_stack (b : Nat) (x : Nibble) : (s.loadRegs b x).stack = s.stack := rfl
@[simp] theorem State.loadRegs_sp (b : Nat) (x : Nibble) : (s.loadRegs b x).sp = s.sp := rfl
@[simp] theorem State.loadRegs_DT (b : Nat) (x : Nibble) : (s.loadRegs b x).DT = s.DT := rfl
@[simp] theorem State.loadRegs_ST (b : Nat) (x : Nibble) : (s.loadRegs b x).ST = s.ST := rfl
@[simp] theorem State.loadRegs_fb (b : Nat) (x : Nibble) : (s.loadRegs b x).fb = s.fb := rfl
@[simp] theorem State.loadRegs_keyState (b : Nat) (x : Nibble) : (s.loadRegs b x).keyState = s.keyState := rfl
@[simp] theorem State.loadRegs_mode (b : Nat) (x : Nibble) : (s.loadRegs b x).mode = s.mode := rfl
@[simp] theorem State.loadRegs_redrawPending (b : Nat) (x : Nibble) : (s.loadRegs b x).redrawPending = s.redrawPending := rfl
@[simp] theorem State.loadRegs_fault (b : Nat) (x : Nibble) : (s.loadRegs b x).fault = s.fault := rfl
@[simp] theorem State.loadRegs_memory (b : Nat) (x : Nibble) : (s.loadRegs b x).memory = s.memory := rfl
@[simp] theorem State.loadRegs_keySample (b : Nat) (x : Nibble) : (s.loadRegs b x).keySample = s.keySample := rfl
@[simp] theorem State.loadRegs_randByte (b : Nat) (x : Nibble) : (s.loadRegs b x).randByte = s.randByte := rfl
@[simp] theorem State.loadRegs_redrawOut (b : Nat) (x : Nibble) : (s.loadRegs b x).redrawOut = s.redrawOut := rfl
@[simp] theorem State.loadRegs_faultOut (b : Nat) (x : Nibble) : (s.loadRegs b x).faultOut = s.faultOut := rfl
@[simp] theorem State.loadRegs_inputs (b : Nat) (x : Nibble) : (s.loadRegs b x).inputs = s.inputs := rfl
@[simp] theorem State.loadRegs_activations (b : Nat) (x : Nibble) : (s.loadRegs b x).activations = s.activations := rfl
@[simp] theorem State.loadRegs_started (b : Nat) (x : Nibble) : (s.loadRegs b x).started = s.started := rfl

/-- A register after the block load of Fx65. -/
theorem State.reg_loadRegs (base : Nat) (x y : Nibble) :
    (s.loadRegs base x).reg y = if y.toNat ≤ x.toNat then s.readByte (base + y.toNat) else s.reg y := by
  simp [State.reg, State.loadRegs]

@[simp] theorem State.length_regsUpTo (x : Nibble) : (s.regsUpTo x).length = x.toNat + 1 := by
  have : x.toNat < 16 := x.isLt
  simp [State.regsUpTo]
  omega

theorem State.getElem_regsUpTo (x y : Nibble) (h : y.toNat < (s.regsUpTo x).length) :
    (s.regsUpTo x)[y.toNat] = s.reg y := by
  simp [State.regsUpTo, State.reg]

/-- A flag is 0 or 1 (R22). -/
theorem flagByte_cases (f : Bool) : flagByte f = 0#8 ∨ flagByte f = 1#8 := by
  cases f <;> simp [flagByte]

/-- Everything a push can do: the slot written, sp one up and pc at the target, or the overflow fault. -/
theorem State.pushAndGo_cases (ret target : Addr) :
    (s.sp.val < 16 ∧ (s.pushAndGo ret target).fault = s.fault ∧
      (s.pushAndGo ret target).pc = target ∧ (s.pushAndGo ret target).sp.val = s.sp.val + 1 ∧
      (∀ j : Fin 16, (s.pushAndGo ret target).slot j = if j.val = s.sp.val then ret.setWidth 16 else s.slot j) ∧
      s.pushAndGo ret target =
        { s with
          stack := (s.pushAndGo ret target).stack
          sp := (s.pushAndGo ret target).sp
          pc := target }) ∨
    (s.sp.val = 16 ∧ s.pushAndGo ret target = s.raiseFault .stackOverflow) := by
  have h17 := s.sp.isLt
  by_cases h : s.sp.val < 16
  · refine .inl ⟨h, ?_⟩
    simp only [State.pushAndGo, h, dite_true, State.slot, Vector.getElem_set, true_and, and_true]
    exact fun j => by simp [eq_comm]
  · exact .inr ⟨by omega, by simp [State.pushAndGo, h]⟩

/-- Everything a pop can do: sp one down, pc from the slot and no slot changed, or the underflow fault. -/
theorem State.popAndGo_cases :
    (∃ j : Fin 16, s.sp.val = j.val + 1 ∧
      s.popAndGo = { s with sp := ⟨j.val, by omega⟩, pc := wrap12 (s.slot j).toNat }) ∨
    (s.sp.val = 0 ∧ s.popAndGo = s.raiseFault .stackUnderflow) := by
  have h17 := s.sp.isLt
  by_cases h : s.sp.val = 0
  · exact .inr ⟨h, by simp [State.popAndGo, h]⟩
  · refine .inl ⟨⟨s.sp.val - 1, by omega⟩, by simp; omega, ?_⟩
    simp [State.popAndGo, h, State.slot]

end Sys2Proof.Machine
end

