-- ==== Sys2Proof/Laws/Cycle.lean ====
section
/-! SUPPORT. The cycle engine: the key scan, the key wait, the fault entry, and the three kinds of cycle. -/

namespace Sys2Proof.Machine

variable (s : State)

/-- The scan finds k exactly when k is the least held key (R74). -/
theorem leastHeld_eq_some (keys : Vector Bool 16) (k : Nat) :
    leastHeld keys = some k ↔ ∃ h : k < 16, IsLeastHeld keys ⟨k, h⟩ := by
  have get : ∀ j (h : j < 16), keys.toList.getD j false = keys[j] := by
    intro j h
    simp [h]
  simp only [leastHeld, List.find?_range_eq_some, List.mem_range, IsLeastHeld, Fin.lt_def]
  constructor
  · rintro ⟨h1, h, h2⟩
    refine ⟨h, by rwa [get k h] at h1, fun j hj => ?_⟩
    have := h2 j.val hj
    rw [get j.val j.isLt] at this
    simpa using this
  · rintro ⟨h, h1, h2⟩
    refine ⟨by rwa [get k h], h, fun j hj => ?_⟩
    have := h2 ⟨j, by omega⟩ hj
    rw [get j (by omega)]
    simpa using this

/-- The scan finds nothing exactly when no key is held (R74). -/
theorem leastHeld_eq_none (keys : Vector Bool 16) : leastHeld keys = none ↔ noKey keys := by
  simp only [leastHeld, List.find?_eq_none, List.mem_range, noKey]
  constructor
  · intro h k
    have := h k.val k.isLt
    simpa using this
  · intro h k hk
    have := h ⟨k, hk⟩
    simpa [hk] using this

/-- Everything the key wait can do: nothing with no key held, else the least key to the target and Running. -/
theorem State.resolveWait_cases (t : Nibble) :
    (noKey s.keyState ∧ s.resolveWait t = s) ∨
    ∃ k : Fin 16, IsLeastHeld s.keyState k ∧ s.resolveWait t = (s.setReg t (wrap8 k.val)).setMode .running := by
  unfold State.resolveWait
  cases h : leastHeld s.keyState with
  | none => exact .inl ⟨(leastHeld_eq_none _).1 h, rfl⟩
  | some k =>
    obtain ⟨hk, hl⟩ := (leastHeld_eq_some _ _).1 h
    exact .inr ⟨⟨k, hk⟩, hl, rfl⟩

/-- A tick is one down, and 0 stays 0 (R139). -/
@[simp] theorem toNat_tick (v : Byte) : (tick v).toNat = v.toNat - 1 := by
  have := v.isLt
  unfold tick
  split
  · simp; omega
  · simp [wrap8]; omega

/-- A cycle of a faulted core (R79). -/
theorem cycle_faulted (run : Instr → State → Result) (h : s.fault ≠ .none) :
    cycle run s = .next (s.giveBack false) := by
  simp [cycle, h]

/-- A waiting cycle (R74). -/
theorem cycle_waiting (run : Instr → State → Result) (h : s.fault = .none) {t : Nibble}
    (hm : s.mode = .waitingForKey t) :
    cycle run s = .next ((s.sampleKeys.clearRedraw.resolveWait t).giveBack false) := by
  simp [cycle, h, hm]

/-- A Running cycle whose instruction answers a state (R71). -/
theorem cycle_running (run : Instr → State → Result) (h : s.Executes) {u : State}
    (hu : run (decodeWord s.prepare.fetchWord) s.prepare = .next u) : cycle run s = .next (s.commit u) := by
  obtain ⟨h, hm⟩ := h
  simp only [cycle, h, hm, ne_eq, not_true_eq_false, if_false]
  rw [hu]

/-- The instruction is fetched from the memory the cycle began with (R53, R71). -/
@[simp] theorem State.fetchWord_prepare_activate : s.activate.prepare.fetchWord = s.fetchWord := rfl

/-- The end of a Running cycle without a fault. -/
theorem State.commit_of_none (s0 : State) {s1 : State} (h : s1.fault = .none) :
    s0.commit s1 = s1.giveBack s1.redrawPending := by
  simp [State.commit, h]

/-- The end of a Running cycle with a fault: the state before the cycle, its fault latched (R131). -/
theorem State.commit_of_fault (s0 : State) {s1 : State} (h : s1.fault ≠ .none) :
    s0.commit s1 = (s0.raiseFault s1.fault).giveBack false := by
  simp [State.commit, h]

/-- A word stored at pc is the word fetched, at every pc (R46, R47, R53). -/
theorem State.fetchWord_writeBytes (w : Word) : (s.writeBytes s.pc.toNat (bytesOfWord w)).fetchWord = w := by
  have hpc : (s.writeBytes s.pc.toNat (bytesOfWord w)).pc = s.pc := by
    rw [State.writeBytes_eq]
  have h0 := State.readByte_writeBytes (bytesOfWord w) s s.pc.toNat 0 (by simp [bytesOfWord]) (by simp [bytesOfWord])
  have h1 := State.readByte_writeBytes (bytesOfWord w) s s.pc.toNat 1 (by simp [bytesOfWord]) (by simp [bytesOfWord])
  simp only [State.fetchWord, hpc]
  rw [Nat.add_zero] at h0
  rw [h0, h1]
  exact wordOfBytes_bytesOfWord w

end Sys2Proof.Machine
end

