-- ==== Sys2Proof/Laws/Frames.lean ====
section
/-! SUPPORT. The frames of the shared updates, sprites pixel by pixel, and the 8-bit reductions as arithmetic on bytes. -/

namespace Sys2Proof.Machine

variable (s : State)

/-- A register write with the advance changes that register and pc. -/
theorem frame_setReg (x : Nibble) (b : Byte) : Frame { regs := [x] } s (s.setReg x b).advance := by
  refine ⟨fun r h => ?_, fun _ _ => rfl, by simp⟩
  have hr : r ≠ x := fun e => h (List.mem_singleton.2 e)
  simp [State.reg_setReg, hr]

/-- A flag write and a register write with the advance change VF, that register and pc. -/
theorem frame_setFlagThenReg (x : Nibble) (f : Bool) (b : Byte) :
    Frame { regs := [x, VF] } s (s.setFlagThenReg x f b).advance := by
  refine ⟨fun r h => ?_, fun _ _ => rfl, by simp⟩
  have hr : r ≠ x ∧ r ≠ VF := by simpa using h
  simp [State.reg_setReg, hr]

/-- The flag stands in VF where the destination is another register. -/
theorem reg_VF_setFlagThenReg {x : Nibble} (h : x ≠ VF) (f : Bool) (b : Byte) :
    (s.setFlagThenReg x f b).advance.reg VF = flagByte f := by
  simp [State.reg_setReg, h.symm]

/-- A block store from I on with the advance changes the bytes at its effective addresses and pc. -/
theorem frame_writeBytes (bs : List Byte) (stored : List Addr) (h : ∀ j < bs.length, s.effAddr j ∈ stored) :
    Frame { stored := stored } s (s.writeBytes s.I.toNat bs).advance := by
  refine ⟨fun r _ => by simp, fun a ha => ?_, by simp⟩
  have : (s.writeBytes s.I.toNat bs).readByte a = s.readByte a :=
    State.readByte_writeBytes_of_ne _ _ _ _ fun j hj e => ha (e ▸ h j hj)
  simpa using this

/-- Reading a block gives the same bytes where each byte reads the same. -/
theorem readBytes_congr {s t : State} {a b : Nat} (n : Nat)
    (h : ∀ j < n, t.readByte (b + j) = s.readByte (a + j)) : t.readBytes b n = s.readBytes a n := by
  refine List.ext_getElem (by simp) fun i h1 _ => ?_
  rw [State.getElem_readBytes, State.getElem_readBytes]
  exact h i (by simpa using h1)

/-- The bit of a sprite that lands on the pixel it is drawn at. -/
theorem spriteCovers_hit (bytes : List Byte) (vy vx row bit : Nat) (hl : bytes.length ≤ 32) (hr : row < bytes.length)
    (hb : bit < 8) : spriteCovers bytes vy vx (vy + row) (vx + bit) = (bytes.getD row 0#8).getLsbD (7 - bit) := by
  have e1 : (vy + row + 32 - vy % 32) % 32 = row := by omega
  have e2 : (vx + bit + 64 - vx % 64) % 64 = bit := by omega
  simp [spriteCovers, e1, e2, hb]

/-- Coverage depends on the pixel's coordinates modulo 32 and 64. -/
theorem spriteCovers_mod (bytes : List Byte) (vy vx r c : Nat) :
    spriteCovers bytes vy vx (r % 32) (c % 64) = spriteCovers bytes vy vx r c := by
  have e1 : (r % 32 + 32 - vy % 32) % 32 = (r + 32 - vy % 32) % 32 := by omega
  have e2 : (c % 64 + 64 - vx % 64) % 64 = (c + 64 - vx % 64) % 64 := by omega
  simp [spriteCovers, e1, e2]

theorem wrap8_add (a b : Byte) : wrap8 (a.toNat + b.toNat) = a + b := by
  apply BitVec.eq_of_toNat_eq
  simp [wrap8]

theorem wrap8_sub (a b : Byte) : wrap8 (a.toNat + 256 - b.toNat) = a - b := by
  apply BitVec.eq_of_toNat_eq
  have := a.isLt
  have := b.isLt
  simp [wrap8, BitVec.toNat_sub]
  omega

theorem wrap8_half (a : Byte) : wrap8 (a.toNat / 2) = a >>> 1 := by
  revert a
  decide

theorem wrap8_double (a : Byte) : wrap8 (a.toNat * 2) = a <<< 1 := by
  revert a
  decide

theorem flagByte_decide (p : Prop) [Decidable p] : flagByte (decide p) = if p then 1 else 0 := by
  by_cases h : p <;> simp [h, flagByte]

end Sys2Proof.Machine
end

