-- ==== Sys2Proof/Laws/PerInstr.lean ====
section
/-! SUPPORT. The per-instruction family RowOfEncoding: the word of a well-formed instruction has the bits of its row of
the opcode table, and the word of a well-formed `unknown` has the bits of no row (R58, R65). -/

namespace Sys2Proof

/-- The statement about one instruction. -/
def Laws.RowOfEncoding.Statement (i : Instr) : Prop :=
  i.wellFormed = true →
    match i.row with
    | some r => r.Matches (encode i) = true
    | none => ∀ r ∈ opcodeRows, r.Matches (encode i) = false

theorem Laws.RowOfEncoding.cls : Laws.RowOfEncoding.Statement .cls :=
  fun _ => (matches_FFFF _ _).2 rfl

theorem Laws.RowOfEncoding.ret : Laws.RowOfEncoding.Statement .ret :=
  fun _ => (matches_FFFF _ _).2 rfl

theorem Laws.RowOfEncoding.jp (nnn : Addr) : Laws.RowOfEncoding.Statement (.jp nnn) :=
  fun _ => (matches_F000 _ 0x1).2 (by simp [encode])

theorem Laws.RowOfEncoding.call (nnn : Addr) : Laws.RowOfEncoding.Statement (.call nnn) :=
  fun _ => (matches_F000 _ 0x2).2 (by simp [encode])

theorem Laws.RowOfEncoding.seImm (x : Nibble) (kk : Byte) : Laws.RowOfEncoding.Statement (.seImm x kk) :=
  fun _ => (matches_F000 _ 0x3).2 (by simp [encode])

theorem Laws.RowOfEncoding.sneImm (x : Nibble) (kk : Byte) : Laws.RowOfEncoding.Statement (.sneImm x kk) :=
  fun _ => (matches_F000 _ 0x4).2 (by simp [encode])

theorem Laws.RowOfEncoding.seReg (x y : Nibble) : Laws.RowOfEncoding.Statement (.seReg x y) :=
  fun _ => (matches_F00F _ 0x5 0x0).2 (by simp [encode])

theorem Laws.RowOfEncoding.ldImm (x : Nibble) (kk : Byte) : Laws.RowOfEncoding.Statement (.ldImm x kk) :=
  fun _ => (matches_F000 _ 0x6).2 (by simp [encode])

theorem Laws.RowOfEncoding.addImm (x : Nibble) (kk : Byte) : Laws.RowOfEncoding.Statement (.addImm x kk) :=
  fun _ => (matches_F000 _ 0x7).2 (by simp [encode])

theorem Laws.RowOfEncoding.ldReg (x y : Nibble) : Laws.RowOfEncoding.Statement (.ldReg x y) :=
  fun _ => (matches_F00F _ 0x8 0x0).2 (by simp [encode])

theorem Laws.RowOfEncoding.orReg (x y : Nibble) : Laws.RowOfEncoding.Statement (.orReg x y) :=
  fun _ => (matches_F00F _ 0x8 0x1).2 (by simp [encode])

theorem Laws.RowOfEncoding.andReg (x y : Nibble) : Laws.RowOfEncoding.Statement (.andReg x y) :=
  fun _ => (matches_F00F _ 0x8 0x2).2 (by simp [encode])

theorem Laws.RowOfEncoding.xorReg (x y : Nibble) : Laws.RowOfEncoding.Statement (.xorReg x y) :=
  fun _ => (matches_F00F _ 0x8 0x3).2 (by simp [encode])

theorem Laws.RowOfEncoding.addReg (x y : Nibble) : Laws.RowOfEncoding.Statement (.addReg x y) :=
  fun _ => (matches_F00F _ 0x8 0x4).2 (by simp [encode])

theorem Laws.RowOfEncoding.sub (x y : Nibble) : Laws.RowOfEncoding.Statement (.sub x y) :=
  fun _ => (matches_F00F _ 0x8 0x5).2 (by simp [encode])

theorem Laws.RowOfEncoding.shr (x y : Nibble) : Laws.RowOfEncoding.Statement (.shr x y) :=
  fun _ => (matches_F00F _ 0x8 0x6).2 (by simp [encode])

theorem Laws.RowOfEncoding.subn (x y : Nibble) : Laws.RowOfEncoding.Statement (.subn x y) :=
  fun _ => (matches_F00F _ 0x8 0x7).2 (by simp [encode])

theorem Laws.RowOfEncoding.shl (x y : Nibble) : Laws.RowOfEncoding.Statement (.shl x y) :=
  fun _ => (matches_F00F _ 0x8 0xE).2 (by simp [encode])

theorem Laws.RowOfEncoding.sneReg (x y : Nibble) : Laws.RowOfEncoding.Statement (.sneReg x y) :=
  fun _ => (matches_F00F _ 0x9 0x0).2 (by simp [encode])

theorem Laws.RowOfEncoding.ldI (nnn : Addr) : Laws.RowOfEncoding.Statement (.ldI nnn) :=
  fun _ => (matches_F000 _ 0xA).2 (by simp [encode])

theorem Laws.RowOfEncoding.jpV0 (nnn : Addr) : Laws.RowOfEncoding.Statement (.jpV0 nnn) :=
  fun _ => (matches_F000 _ 0xB).2 (by simp [encode])

theorem Laws.RowOfEncoding.rnd (x : Nibble) (kk : Byte) : Laws.RowOfEncoding.Statement (.rnd x kk) :=
  fun _ => (matches_F000 _ 0xC).2 (by simp [encode])

theorem Laws.RowOfEncoding.drw (x y n : Nibble) : Laws.RowOfEncoding.Statement (.drw x y n) :=
  fun _ => (matches_F000 _ 0xD).2 (by simp [encode])

theorem Laws.RowOfEncoding.skp (x : Nibble) : Laws.RowOfEncoding.Statement (.skp x) :=
  fun _ => (matches_F0FF _ 0xE 0x9E).2 (by simp [encode])

theorem Laws.RowOfEncoding.sknp (x : Nibble) : Laws.RowOfEncoding.Statement (.sknp x) :=
  fun _ => (matches_F0FF _ 0xE 0xA1).2 (by simp [encode])

theorem Laws.RowOfEncoding.ldVxDT (x : Nibble) : Laws.RowOfEncoding.Statement (.ldVxDT x) :=
  fun _ => (matches_F0FF _ 0xF 0x07).2 (by simp [encode])

theorem Laws.RowOfEncoding.ldVxK (x : Nibble) : Laws.RowOfEncoding.Statement (.ldVxK x) :=
  fun _ => (matches_F0FF _ 0xF 0x0A).2 (by simp [encode])

theorem Laws.RowOfEncoding.ldDTVx (x : Nibble) : Laws.RowOfEncoding.Statement (.ldDTVx x) :=
  fun _ => (matches_F0FF _ 0xF 0x15).2 (by simp [encode])

theorem Laws.RowOfEncoding.ldSTVx (x : Nibble) : Laws.RowOfEncoding.Statement (.ldSTVx x) :=
  fun _ => (matches_F0FF _ 0xF 0x18).2 (by simp [encode])

theorem Laws.RowOfEncoding.addI (x : Nibble) : Laws.RowOfEncoding.Statement (.addI x) :=
  fun _ => (matches_F0FF _ 0xF 0x1E).2 (by simp [encode])

theorem Laws.RowOfEncoding.ldF (x : Nibble) : Laws.RowOfEncoding.Statement (.ldF x) :=
  fun _ => (matches_F0FF _ 0xF 0x29).2 (by simp [encode])

theorem Laws.RowOfEncoding.ldB (x : Nibble) : Laws.RowOfEncoding.Statement (.ldB x) :=
  fun _ => (matches_F0FF _ 0xF 0x33).2 (by simp [encode])

theorem Laws.RowOfEncoding.ldMemVx (x : Nibble) : Laws.RowOfEncoding.Statement (.ldMemVx x) :=
  fun _ => (matches_F0FF _ 0xF 0x55).2 (by simp [encode])

theorem Laws.RowOfEncoding.ldVxMem (x : Nibble) : Laws.RowOfEncoding.Statement (.ldVxMem x) :=
  fun _ => (matches_F0FF _ 0xF 0x65).2 (by simp [encode])

theorem Laws.RowOfEncoding.unknown (w : Word) : Laws.RowOfEncoding.Statement (.unknown w) :=
  fun h => show ∀ r ∈ opcodeRows, r.Matches w = false by simpa [Instr.wellFormed] using h

end Sys2Proof
end

