-- ==== Sys2Proof/Laws/Screen.lean ====
section
/-! SUPPORT. The frame buffer: a pixel after a flip, after a row and after a whole sprite, and the collision. -/

namespace Sys2Proof.Machine

theorem FrameBuffer.pixel_mod (fb : FrameBuffer) (r c : Nat) :
    FrameBuffer.pixel fb (r % 32) (c % 64) = FrameBuffer.pixel fb r c := by
  simp [FrameBuffer.pixel]

theorem FrameBuffer.pixel_congr (fb : FrameBuffer) {r r' c c' : Nat} (hr : r % 32 = r' % 32) (hc : c % 64 = c' % 64) :
    FrameBuffer.pixel fb r c = FrameBuffer.pixel fb r' c' := by
  rw [← FrameBuffer.pixel_mod fb r, ← FrameBuffer.pixel_mod fb r', hr, hc]

/-- Every pixel of a cleared screen is 0. -/
@[simp] theorem FrameBuffer.pixel_clear (r c : Nat) : FrameBuffer.pixel FrameBuffer.clear r c = false := by
  simp [FrameBuffer.pixel, FrameBuffer.clear]

/-- Two frame buffers with the same pixels are the same. -/
theorem FrameBuffer.ext_pixel {f g : FrameBuffer}
    (h : ∀ r < 32, ∀ c < 64, FrameBuffer.pixel f r c = FrameBuffer.pixel g r c) : f = g := by
  ext r hr c hc
  have := h r hr c hc
  simpa [FrameBuffer.pixel, Nat.mod_eq_of_lt hr, Nat.mod_eq_of_lt hc] using this

/-- A flip XORs 1 into its own pixel and leaves every other pixel alone. -/
theorem FrameBuffer.pixel_flip (fb : FrameBuffer) (r c r' c' : Nat) :
    FrameBuffer.pixel (FrameBuffer.flip fb r c) r' c' =
      (FrameBuffer.pixel fb r' c' ^^ (decide (r' % 32 = r % 32) && decide (c' % 64 = c % 64))) := by
  have er : (r % 32 = r' % 32) = (r' % 32 = r % 32) := propext eq_comm
  have ec : (c % 64 = c' % 64) = (c' % 64 = c % 64) := propext eq_comm
  by_cases hr : r' % 32 = r % 32 <;> by_cases hc : c' % 64 = c % 64
  · rw [FrameBuffer.pixel_congr fb hr hc]
    simp [FrameBuffer.pixel, FrameBuffer.flip, hr, hc]
  all_goals simp [FrameBuffer.pixel, FrameBuffer.flip, er, ec, hr, hc]

theorem pixel_drawBit (bit : Bool) (r c r' c' : Nat) (p : FrameBuffer × Bool) :
    FrameBuffer.pixel (drawBit bit r c p).1 r' c' =
      (FrameBuffer.pixel p.1 r' c' ^^ (bit && (decide (r' % 32 = r % 32) && decide (c' % 64 = c % 64)))) := by
  cases bit
  · simp [drawBit]
  · simp [drawBit, FrameBuffer.pixel_flip]

theorem hit_drawBit (bit : Bool) (r c : Nat) (p : FrameBuffer × Bool) :
    (drawBit bit r c p).2 = (p.2 || (bit && FrameBuffer.pixel p.1 r c)) := by
  cases bit <;> simp [drawBit]

/-- The first n bits of a row, n at most 64: a pixel of the row is XORed with the one bit that lands on it. -/
theorem pixel_drawBits (b : Byte) (r vx : Nat) (p : FrameBuffer × Bool) (r' c' : Nat) :
    ∀ n ≤ 64, FrameBuffer.pixel
        ((List.range n).foldl (fun q bit => drawBit (b.getLsbD (7 - bit)) r (vx + bit) q) p).1 r' c' =
      (FrameBuffer.pixel p.1 r' c' ^^ (decide (r' % 32 = r % 32) &&
        (decide ((c' + 64 - vx % 64) % 64 < n) && b.getLsbD (7 - (c' + 64 - vx % 64) % 64)))) := by
  intro n
  induction n with
  | zero => simp
  | succ n ih =>
    intro hn
    rw [List.range_succ, List.foldl_append, List.foldl_cons, List.foldl_nil, pixel_drawBit, ih (by omega)]
    by_cases h : c' % 64 = (vx + n) % 64
    · have hb : (c' + 64 - vx % 64) % 64 = n := by omega
      simp [h, hb, Bool.and_comm]
    · have hb : (c' + 64 - vx % 64) % 64 ≠ n := by omega
      have : (c' + 64 - vx % 64) % 64 < n + 1 ↔ (c' + 64 - vx % 64) % 64 < n := by omega
      simp [h, this]

/-- The first n bits of a row, n at most 64: the collision is that of a bit on a pixel that was 1 before the row. -/
theorem hit_drawBits (b : Byte) (r vx : Nat) (p : FrameBuffer × Bool) :
    ∀ n ≤ 64, (((List.range n).foldl (fun q bit => drawBit (b.getLsbD (7 - bit)) r (vx + bit) q) p).2 = true ↔
      p.2 = true ∨ ∃ bit < n, b.getLsbD (7 - bit) = true ∧ FrameBuffer.pixel p.1 r (vx + bit) = true) := by
  intro n
  induction n with
  | zero => simp
  | succ n ih =>
    intro hn
    rw [List.range_succ, List.foldl_append, List.foldl_cons, List.foldl_nil, hit_drawBit, Bool.or_eq_true,
      ih (by omega), Bool.and_eq_true, pixel_drawBits _ _ _ _ _ _ n (by omega)]
    have hb : (vx + n + 64 - vx % 64) % 64 = n := by omega
    simp only [hb, lt_irrefl, decide_false, Bool.false_and, Bool.and_false, Bool.xor_false]
    constructor
    · rintro ((h | ⟨k, hk, h⟩) | h)
      · exact .inl h
      · exact .inr ⟨k, by omega, h⟩
      · exact .inr ⟨n, by omega, h⟩
    · rintro (h | ⟨k, hk, h⟩)
      · exact .inl (.inl h)
      · rcases Nat.lt_or_ge k n with hlt | hge
        · exact .inl (.inr ⟨k, hlt, h⟩)
        · obtain rfl : k = n := by omega
          exact .inr h

theorem pixel_drawRow (b : Byte) (r vx : Nat) (p : FrameBuffer × Bool) (r' c' : Nat) :
    FrameBuffer.pixel (drawRow b r vx p).1 r' c' =
      (FrameBuffer.pixel p.1 r' c' ^^ (decide (r' % 32 = r % 32) &&
        (decide ((c' + 64 - vx % 64) % 64 < 8) && b.getLsbD (7 - (c' + 64 - vx % 64) % 64)))) :=
  pixel_drawBits b r vx p r' c' 8 (by decide)

theorem hit_drawRow (b : Byte) (r vx : Nat) (p : FrameBuffer × Bool) :
    (drawRow b r vx p).2 = true ↔
      p.2 = true ∨ ∃ bit < 8, b.getLsbD (7 - bit) = true ∧ FrameBuffer.pixel p.1 r (vx + bit) = true :=
  hit_drawBits b r vx p 8 (by decide)

/-- The first row of a sprite of at most 32 rows and the rows below it cover different pixels. -/
theorem spriteCovers_cons (b : Byte) (bs : List Byte) (vy vx r c : Nat) (h : bs.length < 32) :
    spriteCovers (b :: bs) vy vx r c =
      ((decide (r % 32 = vy % 32) &&
        (decide ((c + 64 - vx % 64) % 64 < 8) && b.getLsbD (7 - (c + 64 - vx % 64) % 64))) ^^
        spriteCovers bs (vy + 1) vx r c) := by
  by_cases hr : r % 32 = vy % 32
  · have h0 : (r + 32 - vy % 32) % 32 = 0 := by omega
    have h1 : (r + 32 - (vy + 1) % 32) % 32 = 31 := by omega
    have h2 : bs[31]? = none := List.getElem?_eq_none (by omega)
    simp [spriteCovers, h0, h1, h2, hr]
  · have h0 : (r + 32 - vy % 32) % 32 = (r + 32 - (vy + 1) % 32) % 32 + 1 := by omega
    simp [spriteCovers, h0, hr]

/-- A sprite of at most 32 rows XORs into each pixel the one bit of it that lands there. -/
theorem pixel_drawSprite (bs : List Byte) (vx r c : Nat) : ∀ (vy : Nat) (p : FrameBuffer × Bool), bs.length ≤ 32 →
    FrameBuffer.pixel (drawSprite bs vy vx p).1 r c = (FrameBuffer.pixel p.1 r c ^^ spriteCovers bs vy vx r c) := by
  induction bs with
  | nil => intro vy p _; simp [drawSprite, spriteCovers]
  | cons b bs ih =>
    intro vy p h
    have h : bs.length < 32 := by simpa using h
    rw [drawSprite, ih _ _ (by omega), pixel_drawRow, spriteCovers_cons _ _ _ _ _ _ h, Bool.xor_assoc]

/-- The collision of a sprite of at most 32 rows: some 1 bit of it lands on a pixel that was 1. -/
theorem hit_drawSprite (bs : List Byte) (vx : Nat) : ∀ (vy : Nat) (p : FrameBuffer × Bool), bs.length ≤ 32 →
    ((drawSprite bs vy vx p).2 = true ↔ p.2 = true ∨ ∃ row < bs.length, ∃ bit < 8,
      (bs.getD row 0#8).getLsbD (7 - bit) = true ∧ FrameBuffer.pixel p.1 (vy + row) (vx + bit) = true) := by
  induction bs with
  | nil => intro vy p _; simp [drawSprite]
  | cons b bs ih =>
    intro vy p h
    have h : bs.length < 32 := by simpa using h
    have untouched : ∀ row < bs.length, ∀ c, FrameBuffer.pixel (drawRow b vy vx p).1 (vy + 1 + row) c =
        FrameBuffer.pixel p.1 (vy + (row + 1)) c := by
      intro row hrow c
      have : ¬ (vy + 1 + row) % 32 = vy % 32 := by omega
      rw [pixel_drawRow, show vy + 1 + row = vy + (row + 1) by omega] at *
      simp [this]
    rw [drawSprite, ih _ _ (by omega), hit_drawRow]
    constructor
    · rintro ((hp | ⟨bit, hb, h1, h2⟩) | ⟨row, hrow, bit, hb, h1, h2⟩)
      · exact .inl hp
      · exact .inr ⟨0, by simp, bit, hb, by simpa using h1, by simpa using h2⟩
      · exact .inr ⟨row + 1, by simpa using hrow, bit, hb, by simpa using h1, by rwa [untouched row hrow] at h2⟩
    · rintro (hp | ⟨row, hrow, bit, hb, h1, h2⟩)
      · exact .inl (.inl hp)
      · cases row with
        | zero => exact .inl (.inr ⟨bit, hb, by simpa using h1, by simpa using h2⟩)
        | succ row =>
          have hrow : row < bs.length := by simpa using hrow
          exact .inr ⟨row, hrow, bit, hb, by simpa using h1, by rwa [untouched row hrow]⟩

end Sys2Proof.Machine
end

