-- ==== Sys2Proof/Laws/Steps.lean ====
section
/-! SUPPORT. What a step can do, said once: every instruction answers a state, and the three kinds of step. -/

namespace Sys2Proof.Machine

variable (s : State)

/-- Every instruction answers a next state on every state. -/
theorem exec_next (i : Instr) : ∃ t, exec i s = .next t := by
  cases i <;> exact ⟨_, rfl⟩

/-- The fetch depends on pc and memory alone. -/
theorem State.fetchWord_congr {s t : State} (hp : t.pc = s.pc) (hm : t.memory = s.memory) : t.fetchWord = s.fetchWord := by
  simp only [State.fetchWord, hp, State.readByte_congr hm]

/-- So does the instruction the next step executes. -/
theorem State.nextInstr_congr {s t : State} (hp : t.pc = s.pc) (hm : t.memory = s.memory) : t.nextInstr = s.nextInstr := by
  simp only [State.nextInstr, State.fetchWord_congr hp hm]

/-- A step of a Running, unfaulted core whose instruction answers u. -/
theorem step_of_exec {u : State} (h : s.Executes) (hu : exec s.nextInstr s.activate.prepare = .next u) :
    step s = .next (s.activate.commit u) :=
  cycle_running s.activate exec h hu

/-- Everything a step can do: a faulted core reports again, a waiting core scans the keys, a Running core executes
one instruction and commits. -/
theorem step_cases :
    (s.fault ≠ .none ∧ step s = .next (s.activate.giveBack false)) ∨
    (∃ r, s.fault = .none ∧ s.mode = .waitingForKey r ∧
      step s = .next ((s.activate.sampleKeys.clearRedraw.resolveWait r).giveBack false)) ∨
    ∃ u, s.Executes ∧ exec s.nextInstr s.activate.prepare = .next u ∧ step s = .next (s.activate.commit u) := by
  by_cases hf : s.fault = .none
  · cases hm : s.mode with
    | waitingForKey r => exact .inr (.inl ⟨r, hf, rfl, cycle_waiting s.activate exec hf hm⟩)
    | running =>
      obtain ⟨u, hu⟩ := exec_next s.activate.prepare s.nextInstr
      exact .inr (.inr ⟨u, ⟨hf, hm⟩, hu, step_of_exec s ⟨hf, hm⟩ hu⟩)
  · exact .inl ⟨hf, cycle_faulted s.activate exec hf⟩

/-- The key wait writes V and mode and nothing else. -/
theorem State.resolveWait_eq (r : Nibble) :
    s.resolveWait r = { s with V := (s.resolveWait r).V, mode := (s.resolveWait r).mode } := by
  rcases s.resolveWait_cases r with ⟨_, e⟩ | ⟨k, _, e⟩
  · rw [e]
  · rw [e]
    rfl

/-- A run of one step more begins with that step. -/
theorem run_succ (n : Nat) {s t : State} (h : step s = .next t) :
    Host.Core.run Sys2Proof.core (n + 1) s = Host.Core.run Sys2Proof.core n t := by
  have : Sys2Proof.core.step s = .next t := h
  simp only [Host.Core.run, this]

end Sys2Proof.Machine
end

