-- ==== Sys2Proof/Tests/Slice0.lean ====
section
/-! SUPPORT. The model's own tests: well-formedness, the decoding of words written out from the spec's encodings, one-step
vectors of 95_test_vectors.md (the names V-... and E... are that file's), and for each statement with hypotheses a
concrete state and operands that meet them. -/

set_option maxRecDepth 8000

namespace Sys2Proof.Tests

open Sys2Proof Sys2Proof.Machine

/-! ### Helpers -/

/-- A key sample with the listed keys held. -/
def held (ks : List Nat) : Vector Bool 16 := Vector.ofFn fun k => ks.contains k.val

/-- The state after reset with pc set, a word at pc, and one input scripted. -/
def start (pc : Addr) (w : Word) (ks : List Nat := []) (rand : Byte := 0) : State :=
  ({ State.reset with pc := pc, inputs := [⟨held ks, rand⟩] } : State).placeWord w

/-- Registers set one after the other. -/
def withRegs (s : State) : List (Nibble × Byte) → State
  | [] => s
  | (x, b) :: rs => withRegs (s.setReg x b) rs

/-- Whether one step answers a next state of which p holds. -/
def after (s : State) (p : State → Bool) : Bool :=
  match step s with
  | .next t => p t
  | .fault _ => false
  | .refused _ => false

/-- Whether the meaning of i answers a next state of which p holds. -/
def does (i : Instr) (s : State) (p : State → Bool) : Bool :=
  match exec i s with
  | .next t => p t
  | .fault _ => false
  | .refused _ => false

/-- What the step returned (R70): redraw and fault_out. -/
def returned (t : State) (redraw : Bool) (code : FaultCode) : Bool := t.redrawOut == redraw && t.faultOut == code

/-- The pixels that are on, as row * 64 + column, of the rows and columns asked about. -/
def litAt (fb : FrameBuffer) (ps : List (Nat × Nat)) : List (Nat × Nat) := ps.filter fun p => FrameBuffer.pixel fb p.1 p.2

/-- A frame buffer with the listed pixels on. -/
def screenOf : List (Nat × Nat) → FrameBuffer
  | [] => FrameBuffer.clear
  | p :: ps => (screenOf ps).flip p.1 p.2

/-! ### Well-formedness (R65): the one check, that the fallback's word is no instruction -/

theorem test_wf_unknown_words : (Instr.unknown 0x0000).wellFormed = true ∧ (Instr.unknown 0x5121).wellFormed = true ∧
    (Instr.unknown 0xF1FF).wellFormed = true := by decide

theorem test_wf_refuses_instruction_words : (Instr.unknown 0x00E0).wellFormed = false ∧
    (Instr.unknown 0x1208).wellFormed = false ∧ (Instr.unknown 0x8AB6).wellFormed = false ∧
    (Instr.unknown 0xE59E).wellFormed = false ∧ (Instr.unknown 0xF265).wellFormed = false := by decide

/-! ### Decoding: each constructor's word, nibble by nibble from its rule -/

/-- R85: 0000 0000 1110 0000. -/
theorem test_decode_cls : decodeWord 0b0000000011100000#16 = .cls ∧ encode (.cls) = 0b0000000011100000#16 := by decide

/-- R90: 0000 0000 1110 1110. -/
theorem test_decode_ret : decodeWord 0b0000000011101110#16 = .ret ∧ encode (.ret) = 0b0000000011101110#16 := by decide

/-- R91: 0001 nnn. -/
theorem test_decode_jp : decodeWord 0b0001101010111100#16 = .jp 0xABC ∧ encode (.jp 0xABC) = 0b0001101010111100#16 := by decide

/-- R92: 0010 nnn. -/
theorem test_decode_call : decodeWord 0b0010001000010000#16 = .call 0x210 ∧ encode (.call 0x210) = 0b0010001000010000#16 := by decide

/-- R96: 0011 x kk. -/
theorem test_decode_seImm : decodeWord 0b0011111100000101#16 = .seImm 0xF 0x05 ∧ encode (.seImm 0xF 0x05) = 0b0011111100000101#16 := by decide

/-- R97: 0100 x kk. -/
theorem test_decode_sneImm : decodeWord 0b0100001100000001#16 = .sneImm 0x3 0x01 ∧ encode (.sneImm 0x3 0x01) = 0b0100001100000001#16 := by decide

/-- R98: 0101 x y 0000. -/
theorem test_decode_seReg : decodeWord 0b0101000100100000#16 = .seReg 0x1 0x2 ∧ encode (.seReg 0x1 0x2) = 0b0101000100100000#16 := by decide

/-- R100: 0110 x kk. -/
theorem test_decode_ldImm : decodeWord 0b0110101001000010#16 = .ldImm 0xA 0x42 ∧ encode (.ldImm 0xA 0x42) = 0b0110101001000010#16 := by decide

/-- R101: 0111 x kk. -/
theorem test_decode_addImm : decodeWord 0b0111000011111110#16 = .addImm 0x0 0xFE ∧ encode (.addImm 0x0 0xFE) = 0b0111000011111110#16 := by decide

/-- R102: 1000 x y 0000. -/
theorem test_decode_ldReg : decodeWord 0b1000000100100000#16 = .ldReg 0x1 0x2 ∧ encode (.ldReg 0x1 0x2) = 0b1000000100100000#16 := by decide

/-- R103: 1000 x y 0001. -/
theorem test_decode_orReg : decodeWord 0b1000000100100001#16 = .orReg 0x1 0x2 ∧ encode (.orReg 0x1 0x2) = 0b1000000100100001#16 := by decide

/-- R104: 1000 x y 0010. -/
theorem test_decode_andReg : decodeWord 0b1000000100100010#16 = .andReg 0x1 0x2 ∧ encode (.andReg 0x1 0x2) = 0b1000000100100010#16 := by decide

/-- R105: 1000 x y 0011. -/
theorem test_decode_xorReg : decodeWord 0b1000000100100011#16 = .xorReg 0x1 0x2 ∧ encode (.xorReg 0x1 0x2) = 0b1000000100100011#16 := by decide

/-- R106: 1000 x y 0100. -/
theorem test_decode_addReg : decodeWord 0b1000000100100100#16 = .addReg 0x1 0x2 ∧ encode (.addReg 0x1 0x2) = 0b1000000100100100#16 := by decide

/-- R107: 1000 x y 0101. -/
theorem test_decode_sub : decodeWord 0b1000000100100101#16 = .sub 0x1 0x2 ∧ encode (.sub 0x1 0x2) = 0b1000000100100101#16 := by decide

/-- R108: 1000 x y 0110. -/
theorem test_decode_shr : decodeWord 0b1000001011110110#16 = .shr 0x2 0xF ∧ encode (.shr 0x2 0xF) = 0b1000001011110110#16 := by decide

/-- R109: 1000 x y 0111. -/
theorem test_decode_subn : decodeWord 0b1000000100100111#16 = .subn 0x1 0x2 ∧ encode (.subn 0x1 0x2) = 0b1000000100100111#16 := by decide

/-- R110: 1000 x y 1110. -/
theorem test_decode_shl : decodeWord 0b1000001111001110#16 = .shl 0x3 0xC ∧ encode (.shl 0x3 0xC) = 0b1000001111001110#16 := by decide

/-- R99: 1001 x y 0000. -/
theorem test_decode_sneReg : decodeWord 0b1001000100100000#16 = .sneReg 0x1 0x2 ∧ encode (.sneReg 0x1 0x2) = 0b1001000100100000#16 := by decide

/-- R115: 1010 nnn. -/
theorem test_decode_ldI : decodeWord 0b1010001100000000#16 = .ldI 0x300 ∧ encode (.ldI 0x300) = 0b1010001100000000#16 := by decide

/-- R93: 1011 nnn. -/
theorem test_decode_jpV0 : decodeWord 0b1011111111111110#16 = .jpV0 0xFFE ∧ encode (.jpV0 0xFFE) = 0b1011111111111110#16 := by decide

/-- R111: 1100 x kk. -/
theorem test_decode_rnd : decodeWord 0b1100001100001111#16 = .rnd 0x3 0x0F ∧ encode (.rnd 0x3 0x0F) = 0b1100001100001111#16 := by decide

/-- R86: 1101 x y n. -/
theorem test_decode_drw : decodeWord 0b1101000100100011#16 = .drw 0x1 0x2 0x3 ∧ encode (.drw 0x1 0x2 0x3) = 0b1101000100100011#16 := by decide

/-- R122: 1110 x 1001 1110. -/
theorem test_decode_skp : decodeWord 0b1110010110011110#16 = .skp 0x5 ∧ encode (.skp 0x5) = 0b1110010110011110#16 := by decide

/-- R123: 1110 x 1010 0001. -/
theorem test_decode_sknp : decodeWord 0b1110010110100001#16 = .sknp 0x5 ∧ encode (.sknp 0x5) = 0b1110010110100001#16 := by decide

/-- R124: 1111 x 0000 0111. -/
theorem test_decode_ldVxDT : decodeWord 0b1111001000000111#16 = .ldVxDT 0x2 ∧ encode (.ldVxDT 0x2) = 0b1111001000000111#16 := by decide

/-- R125: 1111 x 0000 1010. -/
theorem test_decode_ldVxK : decodeWord 0b1111001100001010#16 = .ldVxK 0x3 ∧ encode (.ldVxK 0x3) = 0b1111001100001010#16 := by decide

/-- R126: 1111 x 0001 0101. -/
theorem test_decode_ldDTVx : decodeWord 0b1111000100010101#16 = .ldDTVx 0x1 ∧ encode (.ldDTVx 0x1) = 0b1111000100010101#16 := by decide

/-- R127: 1111 x 0001 1000. -/
theorem test_decode_ldSTVx : decodeWord 0b1111000100011000#16 = .ldSTVx 0x1 ∧ encode (.ldSTVx 0x1) = 0b1111000100011000#16 := by decide

/-- R116: 1111 x 0001 1110. -/
theorem test_decode_addI : decodeWord 0b1111000000011110#16 = .addI 0x0 ∧ encode (.addI 0x0) = 0b1111000000011110#16 := by decide

/-- R117: 1111 x 0010 1001. -/
theorem test_decode_ldF : decodeWord 0b1111010000101001#16 = .ldF 0x4 ∧ encode (.ldF 0x4) = 0b1111010000101001#16 := by decide

/-- R118: 1111 x 0011 0011. -/
theorem test_decode_ldB : decodeWord 0b1111000000110011#16 = .ldB 0x0 ∧ encode (.ldB 0x0) = 0b1111000000110011#16 := by decide

/-- R119: 1111 x 0101 0101. -/
theorem test_decode_ldMemVx : decodeWord 0b1111001001010101#16 = .ldMemVx 0x2 ∧ encode (.ldMemVx 0x2) = 0b1111001001010101#16 := by decide

/-- R120: 1111 x 0110 0101. -/
theorem test_decode_ldVxMem : decodeWord 0b1111001001100101#16 = .ldVxMem 0x2 ∧ encode (.ldVxMem 0x2) = 0b1111001001100101#16 := by decide

/-- R60: 0nE0 with n = 1 is no instruction (V-ENG-2). -/
theorem test_decode_unknown : decodeWord 0b0000000111100000#16 = .unknown 0x01E0 ∧ encode (.unknown 0x01E0) = 0b0000000111100000#16 := by decide

/-- R55: a word needs both its bytes, and the bytes after it are left over. -/
theorem test_decode_bytes : decodeBytes [0x6A#8, 0x42#8, 0x99#8] = .ok (.ldImm 0xA 0x42, [0x99#8]) ∧
    decodeBytes [0x6A#8] = .error .truncated ∧ decodeBytes [] = .error .truncated := by
  refine ⟨rfl, rfl, rfl⟩

/-- R47: the first byte is the high byte. The host numbers the bits of the word the same way. -/
theorem test_decode_table_word : decodeTableWord 16 0x8126 = some (.shr 1 2) ∧
    decodeTableWord 16 0x0000 = some (.unknown 0x0000) := by decide

/-- R61, R62, R63, R64: the low digits that select no instruction (V-ENG-4 to V-ENG-7). -/
theorem test_decode_unknown_rows : decodeWord 0x5121 = .unknown 0x5121 ∧ decodeWord 0x9121 = .unknown 0x9121 ∧
    decodeWord 0x8128 = .unknown 0x8128 ∧ decodeWord 0xE19F = .unknown 0xE19F ∧
    decodeWord 0xF1FF = .unknown 0xF1FF := by decide

/-! ### Steps: the vectors of L2 -/

/-- V-ENG-1: an unknown word is a no-op whose cycle ticks the timers. -/
theorem test_unknown_noop :
    after ({ start 0x300 0x0000 with DT := 3, ST := 1 }) (fun t =>
      t.pc == 0x302 && t.DT == 2 && t.ST == 0 && returned t false .none) = true := by decide

/-- V-ENG-8. -/
theorem test_timers_stay_at_zero :
    after (start 0x300 0x6000) (fun t =>
      t.DT == 0 && t.ST == 0 && t.pc == 0x302) = true := by decide

/-- V-ENG-10: the second byte of a fetch at 0xFFF is at 0x000. -/
theorem test_fetch_wraps :
    after (start 0xFFF 0x60F0) (fun t =>
      t.pc == 0x001 && t.reg 0 == 0xF0 && returned t false .none) = true := by decide

/-- V-ENG-11. -/
theorem test_odd_pc :
    after (start 0x301 0x6A42) (fun t =>
      t.pc == 0x303 && t.reg 0xA == 0x42) = true := by decide

/-- V-ENG-12. -/
theorem test_wait_without_key :
    after ({ start 0x302 0x6001 with mode := .waitingForKey 3, DT := 4, ST := 4 }) (fun t =>
      t.pc == 0x302 && t.mode == .waitingForKey 3 && t.DT == 4 && t.ST == 4 && t.reg 0 == 0 && returned t false .none) = true := by decide

/-- V-ENG-13: keys 3 and 9 are held. -/
theorem test_wait_lowest_key :
    after ({ start 0x302 0x6001 [3, 9] with mode := .waitingForKey 3, DT := 4 }) (fun t =>
      t.pc == 0x302 && t.mode == .running && t.DT == 4 && t.reg 3 == 3 && t.reg 0 == 0 && returned t false .none) = true := by decide

/-- V-ENG-14. -/
theorem test_wait_into_VF :
    after ({ start 0x302 0x6001 [0xC] with mode := .waitingForKey 0xF }) (fun t =>
      t.reg 0xF == 0x0C && t.mode == .running) = true := by decide

/-- V-ENG-15: a faulted core keeps its state and reports its code. -/
theorem test_faulted_step :
    after ({ start 0x300 0x6001 [5] with fault := .stackOverflow, DT := 3, keyState := held [2] }) (fun t =>
      t.pc == 0x300 && t.DT == 3 && t.keyState == held [2] && t.fault == .stackOverflow && t.reg 0 == 0 &&
        returned t false .stackOverflow) = true := by decide

/-- V-DSP-1. -/
theorem test_cls :
    after ({ start 0x300 0x00E0 with fb := screenOf [(0, 0), (31, 63), (3, 10)] }) (fun t =>
      litAt t.fb [(0, 0), (31, 63), (3, 10)] == [] && t.pc == 0x302 && returned t true .none) = true := by decide

/-- V-DSP-3. -/
theorem test_drw_column_wrap :
    after ((withRegs { start 0x300 0xD011 with I := 0x400 } [(0, 0x3E)]).writeByte 0x400 0x81) (fun t =>
      litAt t.fb [(0, 62), (0, 63), (0, 0), (0, 5), (0, 6), (1, 5)] == [(0, 62), (0, 5)] && t.reg 0xF == 0 &&
        t.pc == 0x302 && returned t true .none) = true := by decide

/-- V-DSP-5. -/
theorem test_drw_collision :
    after (({ start 0x300 0xD011 with I := 0x400, fb := screenOf [(0, 1), (5, 5)] } : State).writeByte 0x400 0xC0) (fun t =>
      litAt t.fb [(0, 0), (0, 1), (5, 5)] == [(0, 0), (5, 5)] && t.reg 0xF == 1 && returned t true .none) = true := by decide

/-- V-CTL-1. -/
theorem test_ret :
    after ({ start 0x212 0x00EE with sp := 1, stack := State.reset.stack.set 0 0x206 }) (fun t =>
      t.pc == 0x206 && t.sp == 0 && t.slot 0 == 0x206 && returned t false .none) = true := by decide

/-- V-CTL-2: the tick is discarded. -/
theorem test_ret_underflow :
    after ({ start 0x300 0x00EE with DT := 5 }) (fun t =>
      t.pc == 0x300 && t.DT == 5 && t.fault == .stackUnderflow && returned t false .stackUnderflow) = true := by decide

/-- V-CTL-3, V-CTL-4 for the odd target. -/
theorem test_jp :
    after (start 0x300 0x1ABD) (fun t =>
      t.pc == 0xABD && returned t false .none) = true := by decide

/-- V-CTL-6: a call at 0xFFE pushes 0x000. -/
theorem test_call_wraps :
    after (start 0xFFE 0x2400) (fun t =>
      t.pc == 0x400 && t.sp == 1 && t.slot 0 == 0x000 && returned t false .none) = true := by decide

/-- V-CTL-7: the 17th nested call. -/
theorem test_call_overflow :
    after ({ start 0x300 0x2400 with sp := 16, DT := 2 }) (fun t =>
      t.pc == 0x300 && t.sp == 16 && t.DT == 2 && t.fault == .stackOverflow && returned t false .stackOverflow) = true := by decide

/-- V-CTL-9. -/
theorem test_jpV0_wraps :
    after (withRegs (start 0x200 0xBFFF) [(0, 0xFF)]) (fun t =>
      t.pc == 0x0FE && returned t false .none) = true := by decide

/-- V-CTL-10. -/
theorem test_jpV0_always_V0 :
    after (withRegs (start 0x200 0xB123) [(0, 0x01), (1, 0x50)]) (fun t =>
      t.pc == 0x124) = true := by decide

/-- V-SKP-3. -/
theorem test_seImm_wraps :
    after (withRegs (start 0xFFE 0x3F05) [(0xF, 0x05)]) (fun t =>
      t.pc == 0x002 && returned t false .none) = true := by decide

/-- V-SKP-2. -/
theorem test_seImm_no_skip :
    after (start 0x200 0x3301) (fun t =>
      t.pc == 0x202) = true := by decide

/-- V-SKP-4. -/
theorem test_sneImm_skip :
    after (start 0x200 0x4301) (fun t =>
      t.pc == 0x204) = true := by decide

/-- V-SKP-5. -/
theorem test_sneImm_no_skip :
    after (start 0x200 0x4300) (fun t =>
      t.pc == 0x202) = true := by decide

/-- V-SKP-6. -/
theorem test_seReg_skip :
    after (withRegs (start 0x300 0x5120) [(1, 7), (2, 7)]) (fun t =>
      t.pc == 0x304) = true := by decide

/-- V-SKP-8. -/
theorem test_sneReg_skip :
    after (withRegs (start 0x300 0x9120) [(1, 7), (2, 8)]) (fun t =>
      t.pc == 0x304) = true := by decide

/-- V-SKP-9. -/
theorem test_sneReg_same :
    after (withRegs (start 0x300 0x9330) [(3, 9)]) (fun t =>
      t.pc == 0x302) = true := by decide

/-- V-ALU-2. -/
theorem test_ldImm_VF :
    after (withRegs (start 0x200 0x6F33) [(0xF, 1)]) (fun t =>
      t.reg 0xF == 0x33 && t.pc == 0x202) = true := by decide

/-- V-ALU-3: no flag. -/
theorem test_addImm_wraps :
    after (withRegs (start 0x200 0x7003) [(0, 0xFE), (0xF, 7)]) (fun t =>
      t.reg 0 == 0x01 && t.reg 0xF == 7 && t.pc == 0x202) = true := by decide

/-- V-ALU-5. -/
theorem test_ldReg :
    after (withRegs (start 0x200 0x8010) [(1, 0x42)]) (fun t =>
      t.reg 0 == 0x42 && t.reg 1 == 0x42) = true := by decide

/-- V-ALU-6: VF is not reset. -/
theorem test_orReg :
    after (withRegs (start 0x200 0x8011) [(0, 0x0F), (1, 0xF0), (0xF, 5)]) (fun t =>
      t.reg 0 == 0xFF && t.reg 0xF == 5) = true := by decide

/-- V-ALU-7. -/
theorem test_andReg :
    after (withRegs (start 0x200 0x8012) [(0, 0x3C), (1, 0x0F), (0xF, 5)]) (fun t =>
      t.reg 0 == 0x0C && t.reg 0xF == 5) = true := by decide

/-- V-ALU-8. -/
theorem test_xorReg :
    after (withRegs (start 0x200 0x8013) [(0, 0xFF), (1, 0x0F)]) (fun t =>
      t.reg 0 == 0xF0) = true := by decide

/-- V-ALU-12: 255 exactly is no carry. -/
theorem test_addReg_no_carry :
    after (withRegs (start 0x200 0x8014) [(0, 0x80), (1, 0x7F)]) (fun t =>
      t.reg 0 == 0xFF && t.reg 0xF == 0) = true := by decide

/-- V-ALU-14: the flag is lost. -/
theorem test_addReg_into_VF :
    after (withRegs (start 0x200 0x8F14) [(0xF, 0xFF), (1, 0x01)]) (fun t =>
      t.reg 0xF == 0x00) = true := by decide

/-- V-ALU-16, E3. -/
theorem test_sub_borrow :
    after (withRegs (start 0x200 0x8015) [(0, 0x05), (1, 0x10)]) (fun t =>
      t.reg 0 == 0xF5 && t.reg 0xF == 0) = true := by decide

/-- V-ALU-18: the comparison is strict. -/
theorem test_sub_equal :
    after (withRegs (start 0x200 0x8015) [(0, 7), (1, 7), (0xF, 1)]) (fun t =>
      t.reg 0 == 0 && t.reg 0xF == 0) = true := by decide

/-- V-ALU-22. -/
theorem test_shr :
    after (withRegs (start 0x200 0x8206) [(2, 5)]) (fun t =>
      t.reg 2 == 2 && t.reg 0xF == 1) = true := by decide

/-- V-ALU-23. -/
theorem test_shr_ignores_y :
    after (withRegs (start 0x200 0x82F6) [(2, 4), (0xF, 0x77)]) (fun t =>
      t.reg 2 == 2 && t.reg 0xF == 0) = true := by decide

/-- V-ALU-26. -/
theorem test_subn :
    after (withRegs (start 0x200 0x8017) [(0, 0x05), (1, 0x10)]) (fun t =>
      t.reg 0 == 0x0B && t.reg 0xF == 1) = true := by decide

/-- V-ALU-29. -/
theorem test_subn_into_VF :
    after (withRegs (start 0x200 0x8F17) [(0xF, 3), (1, 5)]) (fun t =>
      t.reg 0xF == 2) = true := by decide

/-- V-ALU-30. -/
theorem test_shl :
    after (withRegs (start 0x200 0x830E) [(3, 0x81)]) (fun t =>
      t.reg 3 == 0x02 && t.reg 0xF == 1) = true := by decide

/-- V-ALU-32. -/
theorem test_shl_into_VF :
    after (withRegs (start 0x200 0x8F0E) [(0xF, 0x81)]) (fun t =>
      t.reg 0xF == 0x02) = true := by decide

/-- V-ALU-33. -/
theorem test_rnd :
    after (start 0x200 0xC30F [] 0xA7) (fun t =>
      t.reg 3 == 0x07 && t.pc == 0x202) = true := by decide

/-- V-MEM-1: the upper bits of I are cleared. -/
theorem test_ldI :
    after ({ start 0x200 0xA300 with I := 0x1234 }) (fun t =>
      t.I == 0x0300) = true := by decide

/-- V-MEM-3: I exceeds 0xFFF. -/
theorem test_addI_no_flag :
    after (withRegs { start 0x200 0xF01E with I := 0x0FFF } [(0, 1)]) (fun t =>
      t.I == 0x1000 && t.reg 0xF == 0) = true := by decide

/-- V-MEM-4. -/
theorem test_addI_wraps :
    after (withRegs { start 0x200 0xF01E with I := 0xFFFF } [(0, 1)]) (fun t =>
      t.I == 0x0000) = true := by decide

/-- V-MEM-6. -/
theorem test_ldF_unmasked :
    after (withRegs (start 0x200 0xF429) [(4, 0xFF)]) (fun t =>
      t.I == 0x04FB) = true := by decide

/-- V-MEM-9: 255 at I = 0xFFF wraps into the glyph region. -/
theorem test_ldB_wraps :
    after (withRegs { start 0x200 0xF033 with I := 0x0FFF } [(0, 0xFF)]) (fun t =>
      t.readByte 0xFFF == 2 && t.readByte 0x000 == 5 && t.readByte 0x001 == 5 && t.I == 0x0FFF) = true := by decide

/-- V-MEM-10: the byte after the last is untouched. -/
theorem test_ldMemVx :
    after ((withRegs { start 0x200 0xF255 with I := 0x400 } [(0, 1), (1, 2), (2, 3), (3, 4)]).writeByte 0x403 0x77) (fun t =>
      t.readBytes 0x400 4 == [1, 2, 3, 0x77] && t.I == 0x400) = true := by decide

/-- V-MEM-12. -/
theorem test_ldMemVx_wraps :
    after (withRegs { start 0x200 0xF155 with I := 0x1FFF } [(0, 0x11), (1, 0x22)]) (fun t =>
      t.readByte 0xFFF == 0x11 && t.readByte 0x000 == 0x22 && t.I == 0x1FFF) = true := by decide

/-- V-MEM-13: registers above x are unchanged. -/
theorem test_ldVxMem :
    after ((withRegs { start 0x200 0xF265 with I := 0x300 } [(3, 0x99)]).writeBytes 0x300 [2, 5, 4, 7]) (fun t =>
      t.reg 0 == 2 && t.reg 1 == 5 && t.reg 2 == 4 && t.reg 3 == 0x99 && t.I == 0x300) = true := by decide

/-- V-KEY-1. -/
theorem test_skp_held :
    after (withRegs (start 0x300 0xE59E [7]) [(5, 7)]) (fun t =>
      t.pc == 0x304 && returned t false .none) = true := by decide

/-- V-KEY-3: V5 = 16. -/
theorem test_skp_bad_index :
    after (withRegs { start 0x300 0xE59E [0] with DT := 4 } [(5, 0x10)]) (fun t =>
      t.pc == 0x300 && t.DT == 4 && t.fault == .keyIndexOutOfRange && returned t false .keyIndexOutOfRange) = true := by decide

/-- V-KEY-4. -/
theorem test_sknp_not_held :
    after (withRegs (start 0x300 0xE5A1) [(5, 7)]) (fun t =>
      t.pc == 0x304) = true := by decide

/-- V-KEY-5. -/
theorem test_sknp_held :
    after (withRegs (start 0x300 0xE5A1 [7]) [(5, 7)]) (fun t =>
      t.pc == 0x302) = true := by decide

/-- V-KEY-7: DT after the tick of this cycle. -/
theorem test_ldVxDT :
    after ({ start 0x200 0xF207 with DT := 5 }) (fun t =>
      t.reg 2 == 4 && t.DT == 4) = true := by decide

/-- V-KEY-8. -/
theorem test_ldVxDT_last :
    after ({ start 0x200 0xF207 with DT := 1 }) (fun t =>
      t.reg 2 == 0 && t.DT == 0) = true := by decide

/-- V-KEY-9: the write comes after the tick. -/
theorem test_ldDTVx :
    after (withRegs { start 0x200 0xF115 with DT := 9 } [(1, 3)]) (fun t =>
      t.DT == 3) = true := by decide

/-- V-KEY-10. -/
theorem test_ldSTVx :
    after (withRegs { start 0x200 0xF118 with ST := 1 } [(1, 0x3C)]) (fun t =>
      t.ST == 60) = true := by decide

/-- V-KEY-11: a key held in its own cycle is not used. -/
theorem test_ldVxK :
    after ({ start 0x300 0xF30A [7] with DT := 2 }) (fun t =>
      t.pc == 0x302 && t.DT == 1 && t.mode == .waitingForKey 3 && t.reg 3 == 0 && returned t false .none) = true := by decide

/-! ### Placing a word, loading and resetting -/

/-- The word placed is the one the next step runs, first after reset and on a core that waits or is faulted. -/
theorem test_withFetchWord : after (State.reset.withFetchWord 16 0x6A42) (fun t => t.reg 0xA == 0x42 && t.pc == 0x202) = true ∧
    after (({ State.reset with mode := .waitingForKey 3, fault := .stackOverflow } : State).withFetchWord 16 0x6A42)
      (fun t => t.reg 0xA == 0x42 && t.pc == 0x202) = true := by decide

/-- R153: the first bytes of E6, loaded and fetched. -/
theorem test_load : (match loadImage [0x60, 0x05, 0x61, 0x03, 0x80, 0x14] State.reset with
    | .next t => t.fetchWord == 0x6005 && t.readBytes 0x202 4 == [0x61, 0x03, 0x80, 0x14] && !t.started
    | .fault _ => false
    | .refused _ => false) = true := by decide

/-- R154, D26: the warning on an image that does not fit. -/
theorem test_truncated : truncated (List.replicate 3584 0) = false ∧ truncated (List.replicate 3585 0) = true := by
  constructor <;> rw [truncated, List.length_replicate] <;> decide

/-- R134, R151: reset leaves the faulted state. -/
theorem test_hostReset : ({ State.reset with fault := .stackOverflow, sp := 16, started := true } : State).hostReset =
    State.reset := by decide

/-! ### Witnesses: for each statement with hypotheses, a state and operands that meet them -/

/-- StepRunsDecodedInstruction, at the end of memory. -/
theorem test_witness_StepRuns : (start 0xFFF 0x60F0).fault = .none ∧ (start 0xFFF 0x60F0).mode = .running ∧
    (Instr.ldImm 0 0xF0).wellFormed = true ∧
    decodeBytes [(start 0xFFF 0x60F0).readByte 0xFFF, (start 0xFFF 0x60F0).readByte 0x1000] =
      .ok (.ldImm 0 0xF0, []) := by
  refine ⟨rfl, rfl, rfl, rfl⟩

/-- EncodeThenDecode: a fallback and an instruction. -/
theorem test_witness_EncodeThenDecode : (Instr.unknown 0x8AB8).wellFormed = true ∧ (Instr.shr 0xF 0xF).wellFormed = true := by
  decide

/-- MaskAndMatchSelectTheRow: a row and a word of it, and a word of no row. -/
theorem test_witness_MaskAndMatch : (⟨0xF00F, 0x8006⟩ : OpRow) ∈ opcodeRows ∧
    OpRow.Matches ⟨0xF00F, 0x8006⟩ 0x82F6 = true ∧ (decodeWord 0x82F6).row = some ⟨0xF00F, 0x8006⟩ ∧
    (∀ r ∈ opcodeRows, r.Matches 0x01E0 = false) := by decide

/-- UnknownWordsByClass: a word of each clause. -/
theorem test_witness_UnknownWords : decodeWord 0x0FFF = .unknown 0x0FFF ∧ decodeWord 0x5001 = .unknown 0x5001 ∧
    decodeWord 0x9FFF = .unknown 0x9FFF ∧ decodeWord 0x812F = .unknown 0x812F ∧ decodeWord 0xE59D = .unknown 0xE59D ∧
    decodeWord 0xF200 = .unknown 0xF200 :=
  ⟨rfl, rfl, rfl, rfl, rfl, rfl⟩

/-- DoubleDrawRestoresScreen: E5, the state after the first draw drawn again. -/
theorem test_witness_DoubleDraw : (0 : Nibble) ≠ VF ∧ (1 : Nibble) ≠ VF ∧
    ∃ t, exec (.drw 0 1 1) (({ State.reset with I := 0x300 } : State).writeByte 0x300 0xF0) = .next t ∧
      (t.setPc 0x300).fb = t.fb ∧ (t.setPc 0x300).reg 0 = t.reg 0 ∧ (t.setPc 0x300).reg 1 = t.reg 1 ∧
      (t.setPc 0x300).I = t.I ∧
      ∀ row < (1 : Nibble).toNat, (t.setPc 0x300).readByte ((t.setPc 0x300).I.toNat + row) = t.readByte (t.I.toNat + row) :=
  ⟨by decide, by decide, _, rfl, rfl, rfl, rfl, rfl, fun _ _ => rfl⟩

/-- ReturnPopsOrUnderflows: slots 0 and 15, and the empty stack. -/
theorem test_witness_Return : ({ State.reset with sp := 1 } : State).sp.val = (0 : Fin 16).val + 1 ∧
    ({ State.reset with sp := 16 } : State).sp.val = (15 : Fin 16).val + 1 ∧ State.reset.sp.val = 0 := by decide

/-- CallPushesOrOverflows and CallThenReturn: slots 0 and 15, and the full stack. -/
theorem test_witness_Call : State.reset.sp.val = (0 : Fin 16).val ∧
    ({ State.reset with sp := 15 } : State).sp.val = (15 : Fin 16).val ∧
    ({ State.reset with sp := 15 } : State).sp.val < 16 ∧ ({ State.reset with sp := 16 } : State).sp.val = 16 := by decide

/-- AddWithCarry, SubtractSetsStrictGreater, ShiftRight, SubtractReversed, ShiftLeft and FlagAliasing: destinations other
than VF. -/
theorem test_witness_destination : (0 : Nibble) ≠ VF ∧ (0xE : Nibble) ≠ VF := by decide

/-- AddWithCarry: both values of the flag, at the boundary of 255. -/
theorem test_witness_carry : does (.addReg 0 1) (withRegs State.reset [(0, 0xFF), (1, 0x01)])
      (fun t => t.reg 0 == 0 && t.reg VF == 1) = true ∧
    does (.addReg 0 1) (withRegs State.reset [(0, 0xFF), (1, 0x00)]) (fun t => t.reg 0 == 0xFF && t.reg VF == 0) = true := by
  decide

/-- StoreRegisters and LoadRegisters: the first and last register of the range, and the first above it. -/
theorem test_witness_register_range : (0 : Nibble) ≤ 0xF ∧ (0xF : Nibble) ≤ 0xF ∧ (0 : Nibble) ≤ 0 ∧ (0 : Nibble) < 1 ∧
    (0xE : Nibble) < 0xF := by decide

/-- SkipOnKey: key indices 0 and 15, and 16 and 255, which are none. -/
theorem test_witness_SkipOnKey : (State.reset.reg 5).toNat = (0 : Fin 16).val ∧
    ((withRegs State.reset [(5, 15)]).reg 5).toNat = (15 : Fin 16).val ∧
    ((withRegs State.reset [(5, 16)]).reg 5).toNat > 15 ∧ ((withRegs State.reset [(5, 255)]).reg 5).toNat > 15 := by decide

/-- ReadDelayTimer: a core about to read DT. -/
theorem test_witness_ReadDelayTimer : (start 0x200 0xF207).Executes ∧ (start 0x200 0xF207).nextInstr = .ldVxDT 2 :=
  ⟨⟨rfl, rfl⟩, rfl⟩

/-- SetTimers: a core about to write DT, and one about to write ST. -/
theorem test_witness_SetTimers : (start 0x200 0xF115).Executes ∧ (start 0x200 0xF115).nextInstr = .ldDTVx 1 ∧
    (start 0x200 0xF118).Executes ∧ (start 0x200 0xF118).nextInstr = .ldSTVx 1 :=
  ⟨⟨rfl, rfl⟩, rfl, ⟨rfl, rfl⟩, rfl⟩

/-- UnknownEncodingIsNoOp: V-ENG-5. -/
theorem test_witness_UnknownEncoding : (start 0x300 0x8128).Executes ∧ (start 0x300 0x8128).fetchWord = 0x8128 ∧
    ∀ r ∈ opcodeRows, r.Matches 0x8128 = false :=
  ⟨⟨rfl, rfl⟩, rfl, by decide⟩

/-- OnlyTheseInstructionsWriteVF: an instruction of each kind that writes 0 or 1. -/
theorem test_witness_WriteVF : (∃ x y, x ≠ VF ∧ Instr.shl 3 0 = .shl x y) ∧
    (∃ x y n, Instr.drw 0xF 0 1 = .drw x y n) :=
  ⟨⟨3, 0, by decide, rfl⟩, ⟨0xF, 0, 1, rfl⟩⟩

/-- RandomByteReachesOnlyRnd: an instruction that is no Cxkk. -/
theorem test_witness_RandomByte : ∀ x kk, Instr.ldImm 0 0 ≠ .rnd x kk := by simp

/-- FaultsOnExactlyThreeConditions, with each of its outcomes. -/
theorem test_witness_Faults : State.reset.fault = .none ∧ faultOf .ret State.reset = .stackUnderflow ∧
    faultOf (.call 0) { State.reset with sp := 16 } = .stackOverflow ∧
    faultOf (.skp 5) (withRegs State.reset [(5, 16)]) = .keyIndexOutOfRange ∧
    faultOf (.sknp 5) (withRegs State.reset [(5, 15)]) = .none := by decide

/-- TimersTickPerCycle, NextPcOfEveryStep: a step that executes nothing, one that faults, one that does not. -/
theorem test_witness_kinds_of_step :
    (¬ ({ State.reset with mode := .waitingForKey 3 } : State).Executes) ∧
    ((start 0x300 0x00EE).Executes ∧ faultOf (start 0x300 0x00EE).nextInstr (start 0x300 0x00EE) ≠ .none ∧
      after (start 0x300 0x00EE) (fun t => t.fault != .none) = true) ∧
    ((start 0x300 0x6001).Executes ∧ faultOf (start 0x300 0x6001).nextInstr (start 0x300 0x6001) = .none ∧
      after (start 0x300 0x6001) (fun t => t.fault == .none) = true ∧
      (∀ x, (start 0x300 0x6001).nextInstr ≠ .ldDTVx x) ∧ ∀ x, (start 0x300 0x6001).nextInstr ≠ .ldSTVx x) := by
  have h : (start 0x300 0x6001).nextInstr = .ldImm 0 1 := rfl
  refine ⟨fun e => by simp [State.Executes] at e, ⟨⟨rfl, rfl⟩, by decide, by decide⟩, ⟨rfl, rfl⟩, by decide, by decide, ?_, ?_⟩ <;>
    · rw [h]
      simp

/-- RedrawExactlyAfterDisplay, OnlyDisplayInstructionsWriteScreen: steps that draw, and a load. -/
theorem test_witness_Redraw : ((start 0x300 0x00E0).Executes ∧ (start 0x300 0x00E0).nextInstr = .cls) ∧
    ((start 0x300 0xD011).Executes ∧ (start 0x300 0xD011).nextInstr = .drw 0 1 1) ∧ (start 0x300 0x00E0).fault = .none ∧
    loadImage [] State.reset = .next State.reset :=
  ⟨⟨⟨rfl, rfl⟩, rfl⟩, ⟨⟨rfl, rfl⟩, rfl⟩, rfl, rfl⟩

/-- FaultEntryDiscardsCycle: the 17th call. -/
theorem test_witness_FaultEntry : ({ start 0x300 0x2400 with sp := 16 } : State).Executes ∧
    faultOf ({ start 0x300 0x2400 with sp := 16 } : State).nextInstr { start 0x300 0x2400 with sp := 16 } ≠ .none :=
  ⟨⟨rfl, rfl⟩, by decide⟩

/-- FaultedCoreStaysAsItIs, EveryStepCompletes. -/
theorem test_witness_Faulted : ({ State.reset with fault := .keyIndexOutOfRange } : State).fault ≠ .none ∧
    ({ State.reset with fault := .keyIndexOutOfRange } : State).fault ≠ .addressOutOfRange ∧ (1 : Nat) ≠ 0 := by decide

/-- WaitingCycle: no key held, and the keys 0 and 15 the least held. -/
theorem test_witness_WaitingCycle : ({ start 0x302 0x6001 with mode := .waitingForKey 0xF } : State).mode = .waitingForKey 0xF ∧
    (start 0x302 0x6001).fault = .none ∧ noKey (start 0x302 0x6001).nextInput.keys ∧
    IsLeastHeld (start 0x302 0x6001 [0, 9]).nextInput.keys 0 ∧ IsLeastHeld (start 0x302 0x6001 [15]).nextInput.keys 15 := by
  refine ⟨rfl, rfl, ?_, ?_, ?_⟩
  · unfold noKey; decide
  · unfold IsLeastHeld; decide
  · unfold IsLeastHeld; decide

/-- KeyWaitResolves: E8, two idle cycles and then key 7. -/
theorem test_witness_KeyWaitResolves :
    let idle : List StepInput := [⟨held [], 0⟩, ⟨held [], 1⟩]
    let wake : StepInput := ⟨held [7, 9], 2⟩
    let s : State := { State.reset with mode := .waitingForKey 3, inputs := idle ++ wake :: [] }
    s.fault = .none ∧ s.mode = .waitingForKey 3 ∧ s.inputs = idle ++ wake :: [] ∧ (∀ i ∈ idle, noKey i.keys) ∧
      IsLeastHeld wake.keys 7 := by
  refine ⟨rfl, rfl, rfl, ?_, ?_⟩
  · unfold noKey; decide
  · unfold IsLeastHeld; decide

/-- SelfLoopRunsDownItsTimers: the end of P1. -/
theorem test_witness_SelfLoop : (start 0x208 0x1208).SelfLoop := ⟨⟨rfl, rfl⟩, rfl⟩

/-- InvariantKeptByStep and InvariantKeptByHostMoves: a state with memory written and the stack full, and its next states. -/
theorem test_witness_Inv : ({ start 0x300 0x6001 with sp := 16 } : State).Inv ∧
    (∃ t, step { start 0x300 0x6001 with sp := 16 } = .next t) ∧
    (∃ t, hostMove .reset (start 0x300 0x6001) = .next t) ∧ (∃ t, hostMove (.load [1]) (start 0x300 0x6001) = .next t) ∧
    ∃ t, hostMove (.step ⟨held [3], 7⟩) (start 0x300 0x6001) = .next t := by
  refine ⟨?_, ⟨_, rfl⟩, ⟨_, rfl⟩, ⟨_, rfl⟩, ⟨_, rfl⟩⟩
  unfold State.Inv
  decide

/-- StateAfterReset: the ends of the glyph region and of memory. -/
theorem test_witness_StateAfterReset : (0x4F : Nat) < 0x50 ∧ (0x50 : Nat) ≤ 0x50 ∧ (0xFFF : Nat) < 0x1000 := by decide

/-- LoadCopiesImage: before the first step, with an image that is cut off, its last byte copied and its first dropped, a byte
below it and one above a short image. After the first step. -/
theorem test_witness_LoadCopiesImage : State.reset.started = false ∧ 3583 < (List.replicate 3585 (7 : Byte)).length ∧
    ¬ (3584 < 3584) ∧ 0x1FF < 0x200 ∧ 0x200 + ([1, 2] : List Byte).length ≤ 0xFFF ∧
    after (start 0x200 0x6001) (fun t => t.started) = true := by
  refine ⟨rfl, by rw [List.length_replicate]; decide, by decide, by decide, by decide, by decide⟩

end Sys2Proof.Tests
end

section
/-! PROOFS of the family 10_state: what an instruction may change in the Machine State, said once over all instructions,
and from it the writers of each element, the flag register, and the invariant at reset and over every move of the host's. -/

namespace Sys2Proof.Machine

variable (s : State)

/-! ### What an instruction may change -/

/-- What an instruction that raises no fault may change besides pc: the frame of its rule in 41 to 46 of the spec. -/
def changesOf (i : Instr) (s : State) : Changes :=
  match i with
  | .cls => { screen := true }
  | .ret | .call _ => { stack := true }
  | .ldImm x _ | .addImm x _ | .ldReg x _ | .orReg x _ | .andReg x _ | .xorReg x _ | .rnd x _ | .ldVxDT x =>
    { regs := [x] }
  | .addReg x _ | .sub x _ | .shr x _ | .subn x _ | .shl x _ => { regs := [x, VF] }
  | .drw _ _ _ => { regs := [VF], screen := true }
  | .ldI _ | .addI _ | .ldF _ => { I := true }
  | .ldDTVx _ => { DT := true }
  | .ldSTVx _ => { ST := true }
  | .ldVxK _ => { mode := true }
  | .ldB _ => { stored := [s.effAddr 0, s.effAddr 1, s.effAddr 2] }
  | .ldMemVx x => { stored := (List.range (x.toNat + 1)).map s.effAddr }
  | .ldVxMem x => { regs := (List.range (x.toNat + 1)).map (BitVec.ofNat 4) }
  | .jp _ | .jpV0 _ | .seImm _ _ | .sneImm _ _ | .seReg _ _ | .sneReg _ _ | .skp _ | .sknp _ | .unknown _ => {}

/-- The registers 0 to x, as the list that `changesOf` gives Fx65. -/
theorem mem_map_range_ofNat (x r : Nibble) :
    r ∈ (List.range (x.toNat + 1)).map (BitVec.ofNat 4) ↔ r.toNat ≤ x.toNat := by
  have hx : x.toNat < 16 := x.isLt
  simp only [List.mem_map, List.mem_range]
  constructor
  · rintro ⟨j, hj, rfl⟩
    rw [BitVec.toNat_ofNat]
    omega
  · exact fun h => ⟨r.toNat, by omega, by simp⟩

theorem frame_setPc (c : Changes) (a : Addr) : Frame c s (s.setPc a) :=
  ⟨fun _ _ => rfl, fun _ _ => rfl, by simp⟩

theorem frame_setScreen (f : FrameBuffer) : Frame { screen := true } s (s.setScreen f).advance :=
  ⟨fun _ _ => rfl, fun _ _ => rfl, by simp⟩

/-- Drawing with the flag of the collision changes the screen, VF and pc. -/
theorem frame_setScreen_setReg (f : FrameBuffer) (x : Nibble) (b : Byte) :
    Frame { regs := [x], screen := true } s ((s.setScreen f).setReg x b).advance := by
  refine ⟨fun r h => ?_, fun _ _ => rfl, by simp⟩
  have hr : r ≠ x := fun e => h (List.mem_singleton.2 e)
  simp [State.reg_setReg, hr]

theorem frame_setI (v : Word) : Frame { I := true } s (s.setI v).advance :=
  ⟨fun _ _ => rfl, fun _ _ => rfl, by simp⟩

theorem frame_setDT (v : Byte) : Frame { DT := true } s (s.setDT v).advance :=
  ⟨fun _ _ => rfl, fun _ _ => rfl, by simp⟩

theorem frame_setST (v : Byte) : Frame { ST := true } s (s.setST v).advance :=
  ⟨fun _ _ => rfl, fun _ _ => rfl, by simp⟩

theorem frame_setMode (m : Mode) : Frame { mode := true } s (s.setMode m).advance :=
  ⟨fun _ _ => rfl, fun _ _ => rfl, by simp⟩

/-- The block load of Fx65 changes the registers 0 to x and pc. -/
theorem frame_loadRegs (base : Nat) (x : Nibble) :
    Frame { regs := (List.range (x.toNat + 1)).map (BitVec.ofNat 4) } s (s.loadRegs base x).advance := by
  refine ⟨fun r h => ?_, fun _ _ => rfl, by simp⟩
  rw [mem_map_range_ofNat] at h
  simp [State.reg_loadRegs, h]

@[simp] theorem State.popAndGo_memory : s.popAndGo.memory = s.memory := by
  obtain ⟨_, _, e⟩ | ⟨_, e⟩ := s.popAndGo_cases
  · rw [e]
  · rw [e, State.raiseFault_memory]

@[simp] theorem State.popAndGo_stack : s.popAndGo.stack = s.stack := by
  obtain ⟨_, _, e⟩ | ⟨_, e⟩ := s.popAndGo_cases
  · rw [e]
  · rw [e, State.raiseFault_stack]

@[simp] theorem State.pushAndGo_memory (ret target : Addr) : (s.pushAndGo ret target).memory = s.memory := by
  obtain ⟨_, _, _, _, _, e⟩ | ⟨_, e⟩ := s.pushAndGo_cases ret target
  · rw [e]
  · rw [e, State.raiseFault_memory]

/-- A pop that finds a slot in use changes sp and pc. -/
theorem frame_popAndGo (h : s.sp.val ≠ 0) : Frame { stack := true } s s.popAndGo := by
  obtain ⟨_, _, e⟩ | ⟨h0, _⟩ := s.popAndGo_cases
  · rw [e]
    exact ⟨fun _ _ => rfl, fun _ _ => rfl, by simp⟩
  · exact absurd h0 h

/-- A push that finds a free slot changes the stack, sp and pc. -/
theorem frame_pushAndGo (ret target : Addr) (h : s.sp.val ≠ 16) :
    Frame { stack := true } s (s.pushAndGo ret target) := by
  obtain ⟨_, _, _, _, _, e⟩ | ⟨h16, _⟩ := s.pushAndGo_cases ret target
  · rw [e]
    exact ⟨fun _ _ => rfl, fun _ _ => rfl, by simp⟩
  · exact absurd h16 h

variable {s} {t : State} {i : Instr}

/-- Everything an instruction can do: without a fault it changes pc and what `changesOf` names, and with one it only
raises it (R129, R131). -/
theorem exec_cases (h : exec i s = .next t) :
    (faultOf i s = .none ∧ Frame (changesOf i s) s t) ∨
    (faultOf i s ≠ .none ∧ t = s.raiseFault (faultOf i s)) := by
  cases i with
  | cls => cases h; exact .inl ⟨rfl, frame_setScreen s _⟩
  | ret =>
    cases h
    by_cases h0 : s.sp.val = 0
    · exact .inr (by simp [faultOf, State.popAndGo, h0])
    · exact .inl ⟨if_neg h0, frame_popAndGo s h0⟩
  | call nnn =>
    cases h
    by_cases h16 : s.sp.val = 16
    · exact .inr (by simp [faultOf, State.pushAndGo, h16])
    · exact .inl ⟨if_neg h16, frame_pushAndGo s _ nnn h16⟩
  | skp x | sknp x =>
    cases h
    by_cases hx : (s.reg x).toNat ≤ 15
    · simp only [faultOf, State.keyIndexValid, hx, decide_true, if_true, Nat.not_lt.2 hx, if_false]
      exact .inl ⟨trivial, frame_setPc s _ _⟩
    · simp [faultOf, State.keyIndexValid, hx, Nat.not_le.1 hx]
  | jp | jpV0 | seImm | sneImm | seReg | sneReg | unknown => cases h; exact .inl ⟨rfl, frame_setPc s _ _⟩
  | ldImm | addImm | ldReg | orReg | andReg | xorReg | rnd | ldVxDT => cases h; exact .inl ⟨rfl, frame_setReg s _ _⟩
  | addReg | sub | shr | subn | shl => cases h; exact .inl ⟨rfl, frame_setFlagThenReg s _ _ _⟩
  | drw => cases h; exact .inl ⟨rfl, frame_setScreen_setReg s _ _ _⟩
  | ldI | addI | ldF => cases h; exact .inl ⟨rfl, frame_setI s _⟩
  | ldDTVx => cases h; exact .inl ⟨rfl, frame_setDT s _⟩
  | ldSTVx => cases h; exact .inl ⟨rfl, frame_setST s _⟩
  | ldVxK => cases h; exact .inl ⟨rfl, frame_setMode s _⟩
  | ldB x =>
    cases h
    refine .inl ⟨rfl, frame_writeBytes s _ _ fun j hj => ?_⟩
    have hj : j < 3 := hj
    interval_cases j <;> simp
  | ldMemVx x =>
    cases h
    refine .inl ⟨rfl, frame_writeBytes s _ _ fun j hj => ?_⟩
    rw [State.length_regsUpTo] at hj
    exact List.mem_map_of_mem (List.mem_range.2 hj)
  | ldVxMem => cases h; exact .inl ⟨rfl, frame_loadRegs s _ _⟩

/-! ### Which instructions change what -/

theorem changesOf_I (i : Instr) (s : State) :
    (changesOf i s).I = false ∨ (∃ nnn, i = .ldI nnn) ∨ ∃ x, i = .addI x ∨ i = .ldF x := by
  cases i <;> simp [changesOf]

theorem changesOf_stack (i : Instr) (s : State) :
    (changesOf i s).stack = false ∨ i = .ret ∨ ∃ nnn, i = .call nnn := by
  cases i <;> simp [changesOf]

theorem changesOf_DT (i : Instr) (s : State) : (changesOf i s).DT = false ∨ ∃ x, i = .ldDTVx x := by
  cases i <;> simp [changesOf]

theorem changesOf_ST (i : Instr) (s : State) : (changesOf i s).ST = false ∨ ∃ x, i = .ldSTVx x := by
  cases i <;> simp [changesOf]

theorem changesOf_screen (i : Instr) (s : State) :
    (changesOf i s).screen = false ∨ i = .cls ∨ ∃ x y n, i = .drw x y n := by
  cases i <;> simp [changesOf]

theorem changesOf_mode (i : Instr) (s : State) : (changesOf i s).mode = false ∨ ∃ x, i = .ldVxK x := by
  cases i <;> simp [changesOf]

/-- The instructions that may write VF: those with VF as their destination, and those with a flag (R22). -/
theorem changesOf_VF (i : Instr) (s : State) : VF ∉ (changesOf i s).regs ∨
    (∃ kk, i = .ldImm VF kk ∨ i = .addImm VF kk ∨ i = .rnd VF kk) ∨
    (∃ y, i = .ldReg VF y ∨ i = .orReg VF y ∨ i = .andReg VF y ∨ i = .xorReg VF y) ∨
    i = .ldVxDT VF ∨ i = .ldVxMem VF ∨
    (∃ x y, i = .addReg x y ∨ i = .sub x y ∨ i = .shr x y ∨ i = .subn x y ∨ i = .shl x y) ∨
    ∃ x y n, i = .drw x y n := by
  cases i with
  | ldVxMem x =>
    by_cases hx : x = VF
    · simp [hx]
    · refine .inl fun h => hx (BitVec.eq_of_toNat_eq ?_)
      have hle := (mem_map_range_ofNat x VF).1 h
      have hlt := x.isLt
      simp only [VF, BitVec.toNat_ofNat] at hle ⊢
      omega
  | ldImm x | addImm x | rnd x | ldReg x | orReg x | andReg x | xorReg x | ldVxDT x =>
    by_cases hx : VF = x <;> simp [changesOf, hx]
  | _ => simp [changesOf]

/-- Listed memory, which a frame compares only byte by byte, is as before unless the instruction stores (R49). -/
theorem exec_memory (h : exec i s = .next t) : t.memory = s.memory ∨ ∃ x, i = .ldB x ∨ i = .ldMemVx x := by
  cases i with
  | ldB x => exact .inr ⟨x, .inl rfl⟩
  | ldMemVx x => exact .inr ⟨x, .inr rfl⟩
  | ret => cases h; exact .inl s.popAndGo_memory
  | call nnn => cases h; exact .inl (s.pushAndGo_memory _ nnn)
  | skp | sknp => cases h; exact .inl (by split <;> rfl)
  | _ => cases h; exact .inl rfl

/-- The stack's slots are as before unless the instruction is 2nnn: a pop leaves its slot as it is (R25, D22). -/
theorem exec_stack (h : exec i s = .next t) : t.stack = s.stack ∨ ∃ nnn, i = .call nnn := by
  obtain ⟨hf, -, -, -, hstack, -⟩ | ⟨-, rfl⟩ := exec_cases h
  · obtain hno | rfl | hcall := changesOf_stack i s
    · exact .inl (hstack hno).1
    · cases h
      exact .inl s.popAndGo_stack
    · exact .inr hcall
  · exact .inl rfl

/-- Settles O39: each element is as before by the frame of `exec_cases`, unless the instruction is one that names it. -/
theorem onlyNamedInstructionsWrite : Obligations.OnlyNamedInstructionsWrite := by
  intro i s
  obtain ⟨t, h⟩ := exec_next s i
  have hmemory := (exec_memory h).imp_left State.readByte_congr
  refine ⟨t, h, ?_⟩
  obtain ⟨-, -, -, hI, hstack, hDT, hST, hscreen, hmode, -⟩ | ⟨-, rfl⟩ := exec_cases h
  · exact ⟨(changesOf_I i s).imp_left hI, hmemory, exec_stack h, (changesOf_stack i s).imp_left fun e => (hstack e).2,
      (changesOf_DT i s).imp_left hDT, (changesOf_ST i s).imp_left hST,
      (changesOf_screen i s).imp_left fun e => (hscreen e).1, (changesOf_mode i s).imp_left hmode⟩
  · exact ⟨.inl rfl, hmemory, .inl rfl, .inl rfl, .inl rfl, .inl rfl, .inl rfl, .inl rfl⟩

/-! ### The flag register -/

/-- The arithmetic instructions and shifts with a destination other than VF, and the drawing, leave a flag in VF (R114, R86). -/
theorem exec_reg_VF_flag (h : exec i s = .next t)
    (hi : (∃ x y, x ≠ VF ∧ (i = .addReg x y ∨ i = .sub x y ∨ i = .shr x y ∨ i = .subn x y ∨ i = .shl x y)) ∨
      ∃ x y n, i = .drw x y n) : ∃ f, t.reg VF = flagByte f := by
  obtain ⟨x, y, hx, rfl | rfl | rfl | rfl | rfl⟩ | ⟨x, y, n, rfl⟩ := hi <;> cases h
  case inr => exact ⟨_, State.reg_setReg_same _ VF _⟩
  all_goals exact ⟨_, reg_VF_setFlagThenReg s hx _ _⟩

/-- Settles O40: VF is outside the frame's registers of every other instruction, and what the flag instructions write there
is a flag byte. -/
theorem onlyTheseInstructionsWriteVF : Obligations.OnlyTheseInstructionsWriteVF := by
  intro i s
  obtain ⟨t, h⟩ := exec_next s i
  refine ⟨t, h, ?_, fun hi => ?_⟩
  · obtain ⟨-, hregs, -⟩ | ⟨-, rfl⟩ := exec_cases h
    · exact (changesOf_VF i s).imp_left (hregs VF)
    · exact .inl rfl
  · obtain ⟨f, hf⟩ := exec_reg_VF_flag h hi
    exact hf ▸ flagByte_cases f

/-! ### The invariant over every move -/

/-- The clauses of the invariant that an instruction can break: memory is canonical and every stack slot is an address. -/
def State.StorageInv (s : State) : Prop := Memory.wf s.memory ∧ ∀ j : Fin 16, (s.slot j).toNat < 4096

/-- A push stores a 12-bit address, so every slot stays below 4096 (R38). -/
theorem State.slot_pushAndGo_lt (hslots : ∀ j : Fin 16, (s.slot j).toNat < 4096) (ret target : Addr) (j : Fin 16) :
    ((s.pushAndGo ret target).slot j).toNat < 4096 := by
  obtain ⟨_, _, _, _, hslot, _⟩ | ⟨_, e⟩ := s.pushAndGo_cases ret target
  · rw [hslot]
    split
    · rw [BitVec.toNat_setWidth_of_le (by decide)]
      exact ret.isLt
    · exact hslots j
  · rw [e]
    exact hslots j

/-- Every instruction keeps memory canonical and the slots below 4096. -/
theorem exec_storageInv (h : exec i s = .next t) (hs : s.StorageInv) : t.StorageInv := by
  obtain ⟨hmem, hslots⟩ := hs
  constructor
  · obtain e | ⟨x, rfl | rfl⟩ := exec_memory h
    · rwa [e]
    all_goals cases h; exact State.writeBytes_wf _ hmem _
  · obtain e | ⟨nnn, rfl⟩ := exec_stack h
    · simpa only [State.slot, e] using hslots
    · cases h
      exact State.slot_pushAndGo_lt hslots _ nnn

/-- No instruction raises the reserved code (R129, D2). -/
theorem faultOf_ne_addressOutOfRange (i : Instr) (s : State) : faultOf i s ≠ .addressOutOfRange := by
  cases i with
  | call | ret | skp | sknp => simp only [faultOf]; split <;> decide
  | _ => simp [faultOf]

/-- An instruction that begins unfaulted never ends with the reserved code. -/
theorem exec_fault_ne_addressOutOfRange (h : exec i s = .next t) (hs : s.fault = .none) :
    t.fault ≠ .addressOutOfRange := by
  obtain ⟨-, -, -, -, -, -, -, -, -, -, hfault, -⟩ | ⟨-, rfl⟩ := exec_cases h
  · rw [hfault, hs]
    decide
  · exact faultOf_ne_addressOutOfRange i s

/-- A cycle that returns its own redraw_pending ends with the invariant, if its state meets the clauses that do not speak
of the ports. -/
theorem inv_giveBack {r : Bool} (hs : s.StorageInv) (hfault : s.fault ≠ .none → s.redrawPending = false)
    (hcode : s.fault ≠ .addressOutOfRange) (hr : r = s.redrawPending) : (s.giveBack r).Inv :=
  ⟨hs.1, hs.2, hfault, hcode, hr, rfl⟩

/-- Settles O53: by the three kinds of step, each of which ends by showing redraw_pending and fault at the ports; a
Running one commits the instruction's state, or the fault entry on the state before the cycle. -/
theorem invariantKeptByStep : Obligations.InvariantKeptByStep := by
  intro s t hInv h
  obtain ⟨hmem, hslots, hfault, hcode, -, -⟩ := hInv
  have hstorage : s.StorageInv := ⟨hmem, hslots⟩
  obtain ⟨hf, e⟩ | ⟨r, hf, -, e⟩ | ⟨u, ⟨hf, -⟩, hu, e⟩ := step_cases s <;> cases h.symm.trans e
  · exact inv_giveBack (s := s.activate) hstorage hfault hcode (hfault hf).symm
  · rw [State.resolveWait_eq]
    exact inv_giveBack hstorage (fun _ => rfl) hcode rfl
  · have hcode' : u.fault ≠ .addressOutOfRange := exec_fault_ne_addressOutOfRange hu hf
    by_cases huf : u.fault = .none
    · rw [State.commit_of_none _ huf]
      exact inv_giveBack (exec_storageInv hu hstorage) (fun hne => absurd huf hne) hcode' rfl
    · rw [State.commit_of_fault _ huf]
      exact inv_giveBack (s := s.activate.raiseFault u.fault) hstorage (fun _ => rfl) hcode' rfl

/-- Settles O54: memory lists nothing, every slot is 0, and the ports show the reset values. -/
theorem invariantAtReset : Obligations.InvariantAtReset := by
  refine ⟨reset_memory_wf, fun j => ?_, fun _ => rfl, by decide, rfl, rfl⟩
  simp [State.slot, State.reset]

/-- A load keeps the invariant: it writes nothing but memory, and memory stays canonical. -/
theorem inv_writeBytes (hInv : s.Inv) (a : Nat) (bs : List Byte) : (s.writeBytes a bs).Inv := by
  obtain ⟨hmem, hrest⟩ := hInv
  have hwf := State.writeBytes_wf bs hmem a
  rw [State.writeBytes_eq]
  exact ⟨hwf, hrest⟩

/-- Settles O55: a reset gives the Machine State and ports of construct, a load writes memory only, and a step keeps the
invariant whatever input is put before it. -/
theorem invariantKeptByHostMoves : Obligations.InvariantKeptByHostMoves := by
  intro m s t hInv h
  cases m with
  | reset =>
    cases h
    exact invariantAtReset
  | load image =>
    simp only [hostMove, loadImage] at h
    split at h <;> cases h
    exact inv_writeBytes hInv _ _
  | step input => exact invariantKeptByStep { s with inputs := input :: s.inputs } t hInv h

/-! ### The state after construct -/

/-- After construct every byte of memory is the open parameter's (R34). -/
theorem readByte_reset {a : Nat} (ha : a < 4096) : State.reset.readByte a = Config.initialByte a := by
  simp [State.readByte, State.reset, Memory.get, Nat.mod_eq_of_lt ha]

/-- Settles O57: the fields of construct, the glyph region and the rest of memory by their open parameters, and a reset
that differs from construct in the host's own fields alone. -/
theorem stateAfterReset : Obligations.StateAfterReset := by
  refine ⟨fun r => ?_, rfl, rfl, fun j => ?_, rfl, rfl, rfl, fun r _ c _ => FrameBuffer.pixel_clear r c, fun a ha => ?_,
    fun a ha hglyph => ?_, fun k => ?_, rfl, rfl, rfl, fun s => ⟨?_, rfl⟩⟩
  · simp [State.reg, State.reset]
  · simp [State.slot, State.reset]
  · rw [readByte_reset (by omega), Config.initialByte, if_pos ha]
  · rw [readByte_reset ha, Config.initialByte, if_neg (by omega)]
  · simp [State.reset]
  · simp [SameMachineState, State.hostReset]

end Sys2Proof.Machine
end

section
/-! PROOFS of the family 20_memory: what a read of memory gives after a store, for bytes and for the word fetched. -/

namespace Sys2Proof.Machine

/-- Settles O56: two addresses name one byte exactly when they are equal modulo 4096, and the two bytes of a stored word
are those the fetch puts together. -/
theorem readsGiveTheLastWrite : Obligations.ReadsGiveTheLastWrite := by
  intro s a c b w
  constructor
  · simp only [State.readByte_writeByte, wrap12_eq_iff]
  · exact s.fetchWord_writeBytes w

end Sys2Proof.Machine
end

section
/-! PROOFS of the family 30_encoding: the decoder class by class, encoding and decoding as inverses of each other, the rows
of the opcode table as what the decoder tests, and the unknown encodings. -/

namespace Sys2Proof.Machine

variable (w : Word)

/-! ### The classes of the opcode map -/

theorem nibble_cases : ∀ n : Nibble, n = 0x0 ∨ n = 0x1 ∨ n = 0x2 ∨ n = 0x3 ∨ n = 0x4 ∨ n = 0x5 ∨ n = 0x6 ∨
    n = 0x7 ∨ n = 0x8 ∨ n = 0x9 ∨ n = 0xA ∨ n = 0xB ∨ n = 0xC ∨ n = 0xD ∨ n = 0xE ∨ n = 0xF := by
  decide

/-- The opcode map, said once: the class of a word and what the decoder answers for it (R59). -/
theorem decodeWord_cases :
    (fieldOp w = 0x0 ∧ decodeWord w = decodeClass0 w) ∨
    (fieldOp w = 0x1 ∧ decodeWord w = .jp (fieldNNN w)) ∨
    (fieldOp w = 0x2 ∧ decodeWord w = .call (fieldNNN w)) ∨
    (fieldOp w = 0x3 ∧ decodeWord w = .seImm (fieldX w) (fieldKK w)) ∨
    (fieldOp w = 0x4 ∧ decodeWord w = .sneImm (fieldX w) (fieldKK w)) ∨
    (fieldOp w = 0x5 ∧ decodeWord w = decodeLowNibble0 w (.seReg (fieldX w) (fieldY w))) ∨
    (fieldOp w = 0x6 ∧ decodeWord w = .ldImm (fieldX w) (fieldKK w)) ∨
    (fieldOp w = 0x7 ∧ decodeWord w = .addImm (fieldX w) (fieldKK w)) ∨
    (fieldOp w = 0x8 ∧ decodeWord w = decodeClass8 w) ∨
    (fieldOp w = 0x9 ∧ decodeWord w = decodeLowNibble0 w (.sneReg (fieldX w) (fieldY w))) ∨
    (fieldOp w = 0xA ∧ decodeWord w = .ldI (fieldNNN w)) ∨
    (fieldOp w = 0xB ∧ decodeWord w = .jpV0 (fieldNNN w)) ∨
    (fieldOp w = 0xC ∧ decodeWord w = .rnd (fieldX w) (fieldKK w)) ∨
    (fieldOp w = 0xD ∧ decodeWord w = .drw (fieldX w) (fieldY w) (fieldN w)) ∨
    (fieldOp w = 0xE ∧ decodeWord w = decodeClassE w) ∨
    (fieldOp w = 0xF ∧ decodeWord w = decodeClassF w) := by
  obtain h | h | h | h | h | h | h | h | h | h | h | h | h | h | h | h := nibble_cases (fieldOp w) <;> simp [decodeWord, h]

variable {w}

/-! ### The word of a decoded instruction -/

theorem joinNNN_of_fieldOp {op : Nibble} (h : fieldOp w = op) : joinNNN op (fieldNNN w) = w := by
  rw [← h, joinNNN_fields]

theorem joinXKK_of_fields {op : Nibble} {kk : Byte} (h : fieldOp w = op) (hkk : fieldKK w = kk) :
    joinXKK op (fieldX w) kk = w := by
  rw [← h, ← hkk, joinXKK_fields]

theorem joinXYN_of_fields {op n : Nibble} (h : fieldOp w = op) (hn : fieldN w = n) :
    joinXYN op (fieldX w) (fieldY w) n = w := by
  rw [← h, ← hn, joinXYN_fields]

theorem encode_decodeClass0 : encode (decodeClass0 w) = w := by
  unfold decodeClass0
  split_ifs with hcls hret
  · exact hcls.symm
  · exact hret.symm
  · rfl

theorem encode_decodeLowNibble0 {i : Instr} (h : fieldN w = 0 → encode i = w) : encode (decodeLowNibble0 w i) = w := by
  unfold decodeLowNibble0
  split_ifs with hn
  · exact h hn
  · rfl

theorem encode_decodeClass8 (h : fieldOp w = 0x8) : encode (decodeClass8 w) = w := by
  unfold decodeClass8
  split
  case h_10 => rfl
  all_goals exact joinXYN_of_fields h (BitVec.eq_of_toNat_eq (by assumption))

theorem encode_decodeClassE (h : fieldOp w = 0xE) : encode (decodeClassE w) = w := by
  unfold decodeClassE
  split_ifs with hskp hsknp
  · exact joinXKK_of_fields h hskp
  · exact joinXKK_of_fields h hsknp
  · rfl

theorem encode_decodeClassF (h : fieldOp w = 0xF) : encode (decodeClassF w) = w := by
  unfold decodeClassF
  split_ifs
  case neg => rfl
  all_goals exact joinXKK_of_fields h (by assumption)

/-- No class loses a bit: the fields an instruction carries, and the digits its row fixes, are the whole word (log entry 9
for the fallback and the shifts). -/
theorem encode_decodeWord (w : Word) : encode (decodeWord w) = w := by
  obtain ⟨h, e⟩ | ⟨h, e⟩ | ⟨h, e⟩ | ⟨h, e⟩ | ⟨h, e⟩ | ⟨h, e⟩ | ⟨h, e⟩ | ⟨h, e⟩ | ⟨h, e⟩ | ⟨h, e⟩ | ⟨h, e⟩ | ⟨h, e⟩ | ⟨h, e⟩ |
    ⟨h, e⟩ | ⟨h, e⟩ | ⟨h, e⟩ := decodeWord_cases w <;> rw [e]
  · exact encode_decodeClass0
  · exact joinNNN_of_fieldOp h
  · exact joinNNN_of_fieldOp h
  · exact joinXKK_of_fields h rfl
  · exact joinXKK_of_fields h rfl
  · exact encode_decodeLowNibble0 (joinXYN_of_fields h)
  · exact joinXKK_of_fields h rfl
  · exact joinXKK_of_fields h rfl
  · exact encode_decodeClass8 h
  · exact encode_decodeLowNibble0 (joinXYN_of_fields h)
  · exact joinNNN_of_fieldOp h
  · exact joinNNN_of_fieldOp h
  · exact joinXKK_of_fields h rfl
  · exact joinXYN_of_fields h rfl
  · exact encode_decodeClassE h
  · exact encode_decodeClassF h

/-! ### From a row to the decoded instruction

The laws on masks, for a pattern given as a number: the fields a row fixes are those of its pattern. -/

variable {p : Word} {r : OpRow}

theorem matches_F000_pattern (hp : joinNNN (fieldOp p) 0 = p) :
    OpRow.Matches ⟨0xF000#16, p⟩ w = true ↔ fieldOp w = fieldOp p := by
  rw [← matches_F000, hp]

theorem matches_F00F_pattern (hp : joinXYN (fieldOp p) 0 0 (fieldN p) = p) :
    OpRow.Matches ⟨0xF00F#16, p⟩ w = true ↔ fieldOp w = fieldOp p ∧ fieldN w = fieldN p := by
  rw [← matches_F00F, hp]

theorem matches_F0FF_pattern (hp : joinXKK (fieldOp p) 0 (fieldKK p) = p) :
    OpRow.Matches ⟨0xF0FF#16, p⟩ w = true ↔ fieldOp w = fieldOp p ∧ fieldKK w = fieldKK p := by
  rw [← matches_F0FF, hp]

theorem row_of_matches_opcodeRowsLow (hr : r ∈ opcodeRowsLow) (h : r.Matches w = true) : (decodeWord w).row = some r := by
  fin_cases hr
  iterate 2 -- 00E0 and 00EE
    · rw [(matches_FFFF w _).1 h]
      rfl
  iterate 4 -- 1nnn to 4xkk
    · rw [decodeWord, (matches_F000_pattern (by decide)).1 h]
      rfl
  · -- 5xy0
    obtain ⟨hop, hn⟩ := (matches_F00F_pattern (by decide)).1 h
    rw [decodeWord, hop]
    show (decodeLowNibble0 w _).row = _
    rw [decodeLowNibble0, hn]
    rfl
  all_goals -- 6xkk and 7xkk
    rw [decodeWord, (matches_F000_pattern (by decide)).1 h]
    rfl

theorem row_of_matches_opcodeRows8 (hr : r ∈ opcodeRows8) (h : r.Matches w = true) : (decodeWord w).row = some r := by
  fin_cases hr
  all_goals
    obtain ⟨hop, hn⟩ := (matches_F00F_pattern (by decide)).1 h
    rw [decodeWord, hop]
    show (decodeClass8 w).row = _
    rw [decodeClass8, hn]
    rfl

theorem row_of_matches_opcodeRowsHigh (hr : r ∈ opcodeRowsHigh) (h : r.Matches w = true) :
    (decodeWord w).row = some r := by
  fin_cases hr
  · -- 9xy0
    obtain ⟨hop, hn⟩ := (matches_F00F_pattern (by decide)).1 h
    rw [decodeWord, hop]
    show (decodeLowNibble0 w _).row = _
    rw [decodeLowNibble0, hn]
    rfl
  iterate 4 -- Annn to Dxyn
    · rw [decodeWord, (matches_F000_pattern (by decide)).1 h]
      rfl
  all_goals -- Ex9E and ExA1
    obtain ⟨hop, hkk⟩ := (matches_F0FF_pattern (by decide)).1 h
    rw [decodeWord, hop]
    show (decodeClassE w).row = _
    rw [decodeClassE, hkk]
    rfl

theorem row_of_matches_opcodeRowsF (hr : r ∈ opcodeRowsF) (h : r.Matches w = true) : (decodeWord w).row = some r := by
  fin_cases hr
  all_goals
    obtain ⟨hop, hkk⟩ := (matches_F0FF_pattern (by decide)).1 h
    rw [decodeWord, hop]
    show (decodeClassF w).row = _
    rw [decodeClassF, hkk]
    rfl

/-- A word that matches a row decodes to an instruction of that row (R58). -/
theorem row_decodeWord_of_matches (hr : r ∈ opcodeRows) (h : r.Matches w = true) : (decodeWord w).row = some r := by
  simp only [opcodeRows, List.mem_append] at hr
  obtain hr | hr | hr | hr := hr
  · exact row_of_matches_opcodeRowsLow hr h
  · exact row_of_matches_opcodeRows8 hr h
  · exact row_of_matches_opcodeRowsHigh hr h
  · exact row_of_matches_opcodeRowsF hr h

/-! ### From the decoded instruction to its row -/

theorem row_mem_opcodeRows {i : Instr} (h : i.row = some r) : r ∈ opcodeRows := by
  cases i with
  | unknown => cases h
  | _ => cases h; decide

theorem wellFormed_of_row_eq_some {i : Instr} (h : i.row = some r) : i.wellFormed = true := by
  cases i with
  | unknown => cases h
  | _ => rfl

theorem wellFormed_unknown : (Instr.unknown w).wellFormed = true ↔ ∀ r ∈ opcodeRows, r.Matches w = false := by
  simp [Instr.wellFormed]

open Laws.RowOfEncoding in
/-- The per-instruction family, put together. -/
theorem rowOfEncoding (i : Instr) : Statement i := by
  cases i
  exacts [cls, ret, jp _, call _, seImm _ _, sneImm _ _, seReg _ _, ldImm _ _, addImm _ _, ldReg _ _, orReg _ _,
    andReg _ _, xorReg _ _, addReg _ _, sub _ _, shr _ _, subn _ _, shl _ _, sneReg _ _, ldI _, jpV0 _, rnd _ _,
    drw _ _ _, skp _, sknp _, ldVxDT _, ldVxK _, ldDTVx _, ldSTVx _, addI _, ldF _, ldB _, ldMemVx _, ldVxMem _, unknown _]

/-- A word that decodes to an instruction of a row is that instruction's word, so it has the row's bits. -/
theorem matches_of_row_decodeWord (h : (decodeWord w).row = some r) : r.Matches w = true := by
  have hrow := rowOfEncoding (decodeWord w) (wellFormed_of_row_eq_some h)
  simpa only [h, encode_decodeWord] using hrow

/-- Only the fallback belongs to no row, and the fallback a word decodes to carries that word. -/
theorem decodeWord_of_row_eq_none (h : (decodeWord w).row = none) : decodeWord w = .unknown w := by
  have henc := encode_decodeWord w
  cases e : decodeWord w with
  | unknown u => rw [← henc, e, encode]
  | _ => rw [e] at h; cases h

theorem decodeWord_of_no_matches (h : ∀ r ∈ opcodeRows, r.Matches w = false) : decodeWord w = .unknown w := by
  cases hrow : (decodeWord w).row with
  | none => exact decodeWord_of_row_eq_none hrow
  | some r =>
    have hmatch := h r (row_mem_opcodeRows hrow)
    rw [matches_of_row_decodeWord hrow] at hmatch
    cases hmatch

theorem wellFormed_decodeWord (w : Word) : (decodeWord w).wellFormed = true := by
  cases hrow : (decodeWord w).row with
  | some r => exact wellFormed_of_row_eq_some hrow
  | none =>
    rw [decodeWord_of_row_eq_none hrow, wellFormed_unknown]
    intro r hr
    by_contra hmatch
    rw [row_decodeWord_of_matches hr (Bool.eq_true_of_not_eq_false hmatch)] at hrow
    cases hrow

/-! ### The obligations on decoding and encoding -/

theorem decodeBytes_bytesOfWord (w : Word) (rest : List Byte) :
    decodeBytes (bytesOfWord w ++ rest) = .ok (decodeWord w, rest) := by
  simp only [bytesOfWord, List.cons_append, List.nil_append, decodeBytes, wordOfBytes_bytesOfWord]

/-- The fields put into a word are the fields the decoder takes out of it; a well-formed fallback matches no row. -/
theorem decodeWord_encode {i : Instr} (hwf : i.wellFormed = true) : decodeWord (encode i) = i := by
  cases i with
  | cls | ret => rfl
  | unknown w => exact decodeWord_of_no_matches (wellFormed_unknown.1 hwf)
  | _ => simp [encode, decodeWord, decodeLowNibble0, decodeClass8, decodeClassE, decodeClassF]

/-- Settles O3: the two bytes of a word give the word back, and decoding the word of an instruction gives that
instruction. -/
theorem encodeThenDecode : Obligations.EncodeThenDecode := by
  intro i rest hwf
  rw [encodeBytes, decodeBytes_bytesOfWord, decodeWord_encode hwf]

/-- Settles O4: class by class no bit is lost, and the fallback is answered only for a word that matches no row. -/
theorem decodeThenEncode : Obligations.DecodeThenEncode :=
  fun w => ⟨wellFormed_decodeWord w, encode_decodeWord w⟩

/-- Settles O5: a match gives the row of the decoded instruction, which is one row, and the decoded instruction's word has
the bits of its row. -/
theorem maskAndMatchSelectTheRow : Obligations.MaskAndMatchSelectTheRow := by
  intro w
  refine ⟨fun r hr => ⟨row_decodeWord_of_matches hr, matches_of_row_decodeWord⟩, ⟨fun hrow => ?_, fun h => ?_⟩,
    fun r hr q hq hrw hqw => ?_⟩
  · have hwf := wellFormed_decodeWord w
    rwa [decodeWord_of_row_eq_none hrow, wellFormed_unknown] at hwf
  · rw [decodeWord_of_no_matches h, Instr.row]
  · exact Option.some_inj.1 ((row_decodeWord_of_matches hr hrw).symm.trans (row_decodeWord_of_matches hq hqw))

/-! ### The unknown encodings -/

theorem decodeClass0_eq_unknown : decodeClass0 w = .unknown w ↔ w ≠ 0x00E0 ∧ w ≠ 0x00EE := by
  unfold decodeClass0
  split_ifs <;> simp [*]

theorem decodeLowNibble0_eq_unknown {i : Instr} (hi : i ≠ .unknown w) :
    decodeLowNibble0 w i = .unknown w ↔ fieldN w ≠ 0 := by
  unfold decodeLowNibble0
  split_ifs <;> simp [*]

theorem decodeClass8_eq_unknown :
    decodeClass8 w = .unknown w ↔ fieldN w ∈ [0x8, 0x9, 0xA, 0xB, 0xC, 0xD, 0xF] := by
  obtain h | h | h | h | h | h | h | h | h | h | h | h | h | h | h | h := nibble_cases (fieldN w) <;>
    simp [decodeClass8, h]

theorem decodeClassE_eq_unknown : decodeClassE w = .unknown w ↔ fieldKK w ∉ [0x9E, 0xA1] := by
  unfold decodeClassE
  split_ifs <;> simp [*]

theorem decodeClassF_eq_unknown : decodeClassF w = .unknown w ↔
    fieldKK w ∉ [0x07, 0x0A, 0x15, 0x18, 0x1E, 0x29, 0x33, 0x55, 0x65] := by
  unfold decodeClassF
  split_ifs <;> simp [*]

/-- Settles O6: in the six classes with unknown encodings by the lemma on the class, in the other ten because the decoder
answers another constructor. -/
theorem unknownWordsByClass : Obligations.UnknownWordsByClass := by
  intro w
  obtain ⟨h, e⟩ | ⟨h, e⟩ | ⟨h, e⟩ | ⟨h, e⟩ | ⟨h, e⟩ | ⟨h, e⟩ | ⟨h, e⟩ | ⟨h, e⟩ | ⟨h, e⟩ | ⟨h, e⟩ | ⟨h, e⟩ | ⟨h, e⟩ | ⟨h, e⟩ |
    ⟨h, e⟩ | ⟨h, e⟩ | ⟨h, e⟩ := decodeWord_cases w <;> rw [e, h]
  case inl => simp [decodeClass0_eq_unknown]
  all_goals simp [decodeLowNibble0_eq_unknown, decodeClass8_eq_unknown, decodeClassE_eq_unknown, decodeClassF_eq_unknown]

/-- Settles O2, by running the decoder on each of the sixteen words. -/
theorem specWordsDecode : Obligations.SpecWordsDecode :=
  ⟨rfl, rfl, rfl, rfl, rfl, rfl, rfl, rfl, rfl, rfl, rfl, rfl, rfl, rfl, rfl, rfl⟩

/-- A step of a Running core on a word that matches no row advances pc in the prepared state and commits it (R65). -/
theorem step_of_no_matches {s : State} (hs : s.Executes) (h : ∀ r ∈ opcodeRows, r.Matches s.fetchWord = false) :
    step s = .next (s.activate.prepare.advance.giveBack false) := by
  have hexec : exec s.nextInstr s.activate.prepare = .next s.activate.prepare.advance := by
    rw [State.nextInstr, decodeWord_of_no_matches h]
    rfl
  have hfault : s.activate.prepare.advance.fault = .none := hs.1
  rw [step_of_exec s hs hexec, State.commit_of_none _ hfault]
  rfl

/-- Settles O38: the fallback only advances pc, so its step leaves the effects every cycle has and the new pc. -/
theorem unknownEncodingIsNoOp : Obligations.UnknownEncodingIsNoOp := by
  intro w s
  refine ⟨decodeWord_of_no_matches, ⟨s.advance, rfl, rfl, frame_setPc s _ _⟩, fun hs hw h => ?_⟩
  subst hw
  refine ⟨_, step_of_no_matches hs h, rfl, hs.1, toNat_tick s.DT, toNat_tick s.ST, ?_⟩
  exact ⟨rfl, rfl, rfl, rfl, rfl, rfl, rfl, rfl, rfl, rfl, rfl, rfl, rfl⟩

end Sys2Proof.Machine
end

section
/-! PROOFS of the family 40_cycle_engine: the kinds of step with what each leaves, and from them the next pc, the outputs, the
sampled keys, the faulted core and the key wait; and that only Cxkk reads the random byte. -/

namespace Sys2Proof.Machine

variable {s t : State} {i : Instr}

/-! ### What an executed instruction leaves -/

/-- The ports and the samples do not decide about a fault: it is told by sp and the registers (R129). -/
theorem faultOf_prepare_activate (i : Instr) (s : State) : faultOf i s.activate.prepare = faultOf i s := rfl

/-- The prepared state differs in what the next pc depends on by this cycle's keys alone (R77, R122). -/
theorem nextPc_prepare_activate (i : Instr) (s : State) :
    nextPc i s.activate.prepare = nextPc i { s with keyState := s.nextInput.keys } := rfl

/-- An instruction that raises no fault leaves the pc of the table of R77. -/
theorem exec_pc (h : exec i s = .next t) (hf : faultOf i s = .none) : t.pc = nextPc i s := by
  cases i with
  | ret =>
    cases h
    obtain ⟨j, hj, e⟩ | ⟨h0, -⟩ := s.popAndGo_cases
    · simp [e, nextPc, hj, State.slot]
    · simp [faultOf, h0] at hf
  | call nnn =>
    cases h
    obtain ⟨-, -, hpc, -⟩ | ⟨h16, -⟩ := s.pushAndGo_cases (wrap12 (s.pc.toNat + 2)) nnn
    · exact hpc
    · simp [faultOf, h16] at hf
  | skp x | sknp x =>
    cases h
    have hx : s.keyIndexValid x = true := by simpa [faultOf, State.keyIndexValid] using hf
    rw [if_pos hx]
    rfl
  | ldB | ldMemVx => cases h; simp [nextPc]
  | _ => cases h; rfl

/-- An instruction that begins with redraw_pending clear sets it exactly if it is 00E0 or Dxyn (R82). -/
theorem exec_redrawPending (h : exec i s = .next t) (hs : s.redrawPending = false) :
    t.redrawPending = true ↔ i = .cls ∨ ∃ x y n, i = .drw x y n := by
  constructor
  · intro ht
    obtain ⟨-, -, -, -, -, -, -, hscreen, -⟩ | ⟨-, rfl⟩ := exec_cases h
    · refine (changesOf_screen i s).resolve_left fun hno => ?_
      rw [(hscreen hno).2, hs] at ht
      contradiction
    · contradiction
  · rintro (rfl | ⟨x, y, n, rfl⟩) <;> cases h <;> rfl

/-! ### The kinds of step -/

/-- A step of a waiting core scans the keys of its sample (R74). -/
theorem step_of_waiting {r : Nibble} (hf : s.fault = .none) (hm : s.mode = .waitingForKey r) :
    step s = .next ((s.activate.sampleKeys.clearRedraw.resolveWait r).giveBack false) :=
  cycle_waiting s.activate exec hf hm

/-- The four kinds of step, each with the state it answers: faulted before (R79), waiting (R74), faulting (R131), and
Running without a fault (R71). -/
theorem step_kinds (s : State) :
    (s.fault ≠ .none ∧ step s = .next (s.activate.giveBack false)) ∨
    (∃ r, s.fault = .none ∧ s.mode = .waitingForKey r ∧
      step s = .next ((s.activate.sampleKeys.clearRedraw.resolveWait r).giveBack false)) ∨
    (s.Executes ∧ faultOf s.nextInstr s ≠ .none ∧
      step s = .next ((s.activate.raiseFault (faultOf s.nextInstr s)).giveBack false)) ∨
    ∃ u, s.Executes ∧ faultOf s.nextInstr s = .none ∧ exec s.nextInstr s.activate.prepare = .next u ∧ u.fault = .none ∧
      Frame (changesOf s.nextInstr s.activate.prepare) s.activate.prepare u ∧
      step s = .next (u.giveBack u.redrawPending) := by
  obtain hfaulted | hwaiting | ⟨u, hs, hu, e⟩ := step_cases s
  · exact .inl hfaulted
  · exact .inr (.inl hwaiting)
  · have hcases := exec_cases hu
    rw [faultOf_prepare_activate] at hcases
    obtain ⟨hnone, hframe⟩ | ⟨hsome, rfl⟩ := hcases
    · have hfault : u.fault = .none := by
        obtain ⟨-, -, -, -, -, -, -, -, -, hfault, -⟩ := hframe
        exact hfault.trans hs.1
      rw [State.commit_of_none _ hfault] at e
      exact .inr (.inr (.inr ⟨u, hs, hnone, hu, hfault, hframe, e⟩))
    · rw [State.commit_of_fault _ hsome] at e
      exact .inr (.inr (.inl ⟨hs, hsome, e⟩))

theorem not_executes_of_fault (h : s.fault ≠ .none) : ¬ s.Executes := fun hs => h hs.1

theorem not_executes_of_waiting {r : Nibble} (h : s.mode = .waitingForKey r) : ¬ s.Executes := fun hs => by
  cases h.symm.trans hs.2

/-- Settles O1: the two bytes at pc decode to the instruction the step executes, and every instruction answers a state for
the commit. -/
theorem stepRunsDecodedInstruction : Obligations.StepRunsDecodedInstruction := by
  intro s i hf hm _ hdecode
  obtain rfl : s.nextInstr = i := by
    cases hdecode
    rfl
  obtain ⟨u, hu⟩ := exec_next s.activate.sampleKeys.clearRedraw.tickTimers s.nextInstr
  rw [hu]
  exact step_of_exec s ⟨hf, hm⟩ hu

/-- Settles O44: pc moves only by an instruction that raises no fault, and such an instruction leaves the table's pc. -/
theorem nextPcOfEveryStep : Obligations.NextPcOfEveryStep := by
  intro s
  obtain ⟨hf, e⟩ | ⟨r, -, hm, e⟩ | ⟨hs, hfault, e⟩ | ⟨u, hs, hfault, hu, -, -, e⟩ := step_kinds s
  · have hn := not_executes_of_fault hf
    exact ⟨_, e, fun _ => rfl, fun hs => absurd hs hn, fun hs => absurd hs hn⟩
  · have hn := not_executes_of_waiting hm
    rw [State.resolveWait_eq] at e
    exact ⟨_, e, fun _ => rfl, fun hs => absurd hs hn, fun hs => absurd hs hn⟩
  · exact ⟨_, e, fun _ => rfl, fun _ _ => rfl, fun _ hnone => absurd hnone hfault⟩
  · exact ⟨_, e, fun hn => absurd hs hn, fun _ hsome => absurd hfault hsome, fun _ _ =>
      (exec_pc hu hfault).trans (nextPc_prepare_activate s.nextInstr s)⟩

/-- Settles O45: only a Running cycle without a fault can return redraw, and it returns the redraw_pending that its
instruction left, which began clear. -/
theorem redrawExactlyAfterDisplay : Obligations.RedrawExactlyAfterDisplay := by
  intro s
  obtain ⟨hf, e⟩ | ⟨r, -, hm, e⟩ | ⟨-, hfault, e⟩ | ⟨u, hs, -, hu, -, -, e⟩ := step_kinds s
  · exact ⟨_, e, iff_of_false Bool.false_ne_true fun h => not_executes_of_fault hf h.1, fun hnone => absurd hnone hf⟩
  · rw [State.resolveWait_eq] at e
    exact ⟨_, e, iff_of_false Bool.false_ne_true fun h => not_executes_of_waiting hm h.1, fun _ => rfl⟩
  · refine ⟨_, e, iff_of_false Bool.false_ne_true ?_, fun _ => rfl⟩
    rintro ⟨-, hi | ⟨x, y, n, hi⟩⟩ <;> exact hfault (by rw [hi]; rfl)
  · exact ⟨_, e, (exec_redrawPending hu rfl).trans (and_iff_right hs).symm, fun _ => rfl⟩

/-- Settles O46: the fault entry and a faulted core drop the sample, and no instruction writes key_state. -/
theorem keysSampledEachCycle : Obligations.KeysSampledEachCycle := by
  intro s
  obtain ⟨hf, e⟩ | ⟨r, hf, -, e⟩ | ⟨-, hfault, e⟩ | ⟨u, -, -, -, hnone, hframe, e⟩ := step_kinds s
  · exact ⟨_, e, (if_neg hf).symm⟩
  · rw [State.resolveWait_eq] at e
    exact ⟨_, e, (if_pos hf).symm⟩
  · exact ⟨_, e, (if_neg hfault).symm⟩
  · obtain ⟨-, -, -, -, -, -, -, -, hkeys, -⟩ := hframe
    exact ⟨_, e, hkeys.trans (if_pos hnone).symm⟩

/-- Settles O49: each of the four kinds of step answers a state and shows its fault at the port, and the only code latched
anew is that of `faultOf`, which is never the reserved one. -/
theorem everyStepCompletes : Obligations.EveryStepCompletes := by
  intro s
  obtain ⟨-, e⟩ | ⟨r, -, -, e⟩ | ⟨-, -, e⟩ | ⟨u, -, -, -, hnone, hframe, e⟩ := step_kinds s
  · exact ⟨_, e, id, rfl, rfl⟩
  · rw [State.resolveWait_eq] at e
    exact ⟨_, e, id, rfl, rfl⟩
  · exact ⟨_, e, fun _ => faultOf_ne_addressOutOfRange _ s, rfl, rfl⟩
  · obtain ⟨-, -, -, -, -, -, -, -, -, -, -, -, -, -, -, -, hstarted⟩ := hframe
    exact ⟨_, e, fun _ => hnone ▸ by decide, rfl, hstarted⟩

/-! ### The faulted core -/

/-- One step or more of a faulted core: the Machine State stays, and each step reports the code again (R79, R132). -/
theorem run_of_fault (n : Nat) : ∀ {s : State}, s.fault ≠ .none →
    ∃ t : State, Host.Core.run Sys2Proof.core (n + 1) s = .next t ∧ SameMachineState s t ∧
      t.redrawOut = false ∧ t.faultOut = s.fault := by
  induction n with
  | zero =>
    intro s hf
    rw [run_succ 0 (cycle_faulted s.activate exec hf)]
    exact ⟨_, rfl, by simp [SameMachineState], rfl, rfl⟩
  | succ n ih =>
    intro s hf
    rw [run_succ (n + 1) (cycle_faulted s.activate exec hf)]
    exact ih (s := s.activate.giveBack false) hf

/-- Settles O48: no step is no change, and one step or more is `run_of_fault`. -/
theorem faultedCoreStaysAsItIs : Obligations.FaultedCoreStaysAsItIs := by
  intro n s hf
  cases n with
  | zero => exact ⟨s, rfl, by simp [SameMachineState], fun hn => absurd rfl hn⟩
  | succ n =>
    obtain ⟨t, hrun, hsame, hout⟩ := run_of_fault n hf
    exact ⟨t, hrun, hsame, fun _ => hout⟩

/-! ### The key wait -/

theorem State.resolveWait_of_noKey (h : noKey s.keyState) (r : Nibble) : s.resolveWait r = s := by
  simp [State.resolveWait, (leastHeld_eq_none _).2 h]

theorem State.resolveWait_of_leastHeld {k : Fin 16} (h : IsLeastHeld s.keyState k) (r : Nibble) :
    s.resolveWait r = (s.setReg r (wrap8 k.val)).setMode .running := by
  simp [State.resolveWait, (leastHeld_eq_some _ _).2 ⟨k.isLt, h⟩]

/-- A waiting step with no key in its sample leaves the wait as it is (R74). -/
theorem step_of_waiting_noKey {r : Nibble} (hf : s.fault = .none) (hm : s.mode = .waitingForKey r)
    (h : noKey s.nextInput.keys) : step s = .next (s.activate.sampleKeys.clearRedraw.giveBack false) := by
  rw [step_of_waiting hf hm, State.resolveWait_of_noKey h]

/-- A waiting step whose sample has k as its least key resolves the wait to k (R74). -/
theorem step_of_waiting_leastHeld {r : Nibble} {k : Fin 16} (hf : s.fault = .none) (hm : s.mode = .waitingForKey r)
    (h : IsLeastHeld s.nextInput.keys k) : step s =
      .next (((s.activate.sampleKeys.clearRedraw.setReg r (wrap8 k.val)).setMode .running).giveBack false) := by
  rw [step_of_waiting hf hm, State.resolveWait_of_leastHeld h]

/-- A key index is below 256, so its byte is the index. -/
@[simp] theorem toNat_wrap8_key (k : Fin 16) : (wrap8 k.val).toNat = k.val := by
  simp only [wrap8, BitVec.toNat_ofNat]
  omega

theorem State.nextInput_of_inputs {input : StepInput} {rest : List StepInput} (h : s.inputs = input :: rest) :
    s.nextInput = input := by
  simp [State.nextInput, h]

/-- Settles O50: the scan of a waiting step finds nothing in a sample with no key, and else the least key. -/
theorem waitingCycle : Obligations.WaitingCycle := by
  intro s r hf hm
  refine ⟨_, step_of_waiting hf hm, rfl, ?_, fun hno => ?_, fun k hk => ?_⟩
  · rw [State.resolveWait_eq]
    exact hf
  · rw [State.resolveWait_of_noKey (s := s.activate.sampleKeys.clearRedraw) hno]
    simp [SameMachineState]
  · rw [State.resolveWait_of_leastHeld (s := s.activate.sampleKeys.clearRedraw) hk]
    exact ⟨by simp, fun q hq => by simp [State.reg_setReg_of_ne _ hq], by simp [SameMachineState]⟩

/-- Settles O51, by induction on the idle samples: an idle step leaves a waiting state with one sample less, and the step of
the sample with a key ends the wait. -/
theorem keyWaitResolves : Obligations.KeyWaitResolves := by
  intro s r k idle rest wake hf hm hinputs hidle hwake
  induction idle generalizing s with
  | nil =>
    have hinput := State.nextInput_of_inputs hinputs
    have hstep := step_of_waiting_leastHeld hf hm (hinput ▸ hwake)
    refine ⟨_, run_succ 0 hstep, rfl, by simp, fun q hq => by simp [State.reg_setReg_of_ne _ hq], rfl, rfl, rfl, rfl,
      rfl, rfl, rfl, fun _ => rfl, congrArg List.tail hinputs⟩
  | cons input idle ih =>
    have hinput := State.nextInput_of_inputs hinputs
    obtain ⟨hnow, hlater⟩ := List.forall_mem_cons.1 hidle
    have hstep := step_of_waiting_noKey hf hm (hinput ▸ hnow)
    rw [List.length_cons, run_succ _ hstep]
    exact ih (s.activate.sampleKeys.clearRedraw.giveBack false) hf hm (congrArg List.tail hinputs) hlater

/-! ### The random byte -/

/-- The state with another random byte at the port. -/
def State.withRand (s : State) (b : Byte) : State := { s with randByte := b }

variable (s)

theorem State.sprite_withRand (b : Byte) (n : Nibble) : (s.withRand b).sprite n = s.sprite n :=
  readBytes_congr n.toNat fun _ _ => rfl

theorem State.writeBytes_withRand (b : Byte) (bs : List Byte) : ∀ (s : State) (a : Nat),
    (s.withRand b).writeBytes a bs = (s.writeBytes a bs).withRand b := by
  induction bs with
  | nil => exact fun _ _ => rfl
  | cons c bs ih => exact fun s a => ih (s.writeByte a c) (a + 1)

theorem State.popAndGo_withRand (b : Byte) : (s.withRand b).popAndGo = s.popAndGo.withRand b := by
  unfold State.popAndGo
  rw [apply_dite (State.withRand · b)]
  rfl

theorem State.pushAndGo_withRand (b : Byte) (ret target : Addr) :
    (s.withRand b).pushAndGo ret target = (s.pushAndGo ret target).withRand b := by
  unfold State.pushAndGo
  rw [apply_dite (State.withRand · b)]
  rfl

variable {s}

/-- Every instruction but Cxkk carries another random byte along without reading it (R70, D8). -/
theorem exec_withRand (b : Byte) (hi : ∀ x kk, i ≠ .rnd x kk) (h : exec i s = .next t) :
    exec i (s.withRand b) = .next (t.withRand b) := by
  cases i with
  | rnd x kk => exact absurd rfl (hi x kk)
  | ret => cases h; exact congrArg Host.Outcome.next (s.popAndGo_withRand b)
  | call nnn => cases h; exact congrArg Host.Outcome.next (s.pushAndGo_withRand b _ nnn)
  | skp x | sknp x => cases h; rw [apply_ite (State.withRand · b)]; rfl
  | drw x y n =>
    cases h
    rw [← s.sprite_withRand b n]
    rfl
  | ldB | ldMemVx => cases h; exact congrArg (fun u => Host.Outcome.next u.advance) (State.writeBytes_withRand b _ s _)
  | _ => cases h; rfl

/-- Settles O41, by `exec_withRand` on the state that the instruction answers. -/
theorem randomByteReachesOnlyRnd : Obligations.RandomByteReachesOnlyRnd := by
  intro i s b hi
  obtain ⟨t, h⟩ := exec_next s i
  exact ⟨t, h, exec_withRand b hi h⟩

end Sys2Proof.Machine
end

section
/-! PROOFS of the family 41_display: the pixels and the collision flag that Dxyn leaves, two equal draws, the clear screen,
and which moves write the frame buffer. -/

namespace Sys2Proof.Machine

variable {s t : State} {x y n : Nibble}

/-! ### What a draw leaves -/

@[simp] theorem State.length_sprite (s : State) (n : Nibble) : (s.sprite n).length = n.toNat := by
  simp [State.sprite]

/-- A sprite has no more rows than the screen, so none of them wraps onto another (R86). -/
theorem State.length_sprite_le (s : State) (n : Nibble) : (s.sprite n).length ≤ 32 := by
  have := n.isLt
  rw [State.length_sprite]
  omega

theorem State.getD_sprite {row : Nat} (h : row < n.toNat) :
    (s.sprite n).getD row 0#8 = s.readByte (s.I.toNat + row) := by
  have hlt : row < (s.sprite n).length := by rwa [State.length_sprite]
  rw [← List.getElem_eq_getD (h := hlt)]
  exact State.getElem_readBytes s n.toNat s.I.toNat row hlt

theorem flagByte_eq_one (f : Bool) : flagByte f = 1 ↔ f = true := by
  cases f <;> simp [flagByte]

/-- Each pixel is XORed with the sprite bit that lands on it. -/
theorem exec_drw_pixel (h : exec (.drw x y n) s = .next t) (r c : Nat) : FrameBuffer.pixel t.fb r c =
    (FrameBuffer.pixel s.fb r c ^^ spriteCovers (s.sprite n) (s.reg y).toNat (s.reg x).toNat r c) := by
  cases h
  exact pixel_drawSprite _ _ _ _ _ _ (s.length_sprite_le n)

/-- VF is 1 exactly when a 1 bit of the sprite lands on a pixel that was 1. -/
theorem exec_drw_VF_eq_one_iff (h : exec (.drw x y n) s = .next t) : t.reg VF = 1 ↔
    ∃ row < n.toNat, ∃ bit < 8, (s.readByte (s.I.toNat + row)).getLsbD (7 - bit) = true ∧
      FrameBuffer.pixel s.fb ((s.reg y).toNat + row) ((s.reg x).toNat + bit) = true := by
  cases h
  have hhit := hit_drawSprite (s.sprite n) (s.reg x).toNat (s.reg y).toNat (s.fb, false) (s.length_sprite_le n)
  rw [State.length_sprite] at hhit
  rw [State.advance_eq, State.reg_setPc, State.reg_setReg_same, flagByte_eq_one, hhit, or_iff_right Bool.false_ne_true]
  refine exists_congr fun row => and_congr_right fun hrow => ?_
  rw [State.getD_sprite hrow]

/-- Settles O8: the pixels by `exec_drw_pixel`, the flag by `exec_drw_VF_eq_one_iff`, and the frame of a screen and a VF write. -/
theorem drawSpriteXorsPixels : Obligations.DrawSpriteXorsPixels := by
  intro x y n s
  obtain ⟨t, h⟩ := exec_next s (.drw x y n)
  refine ⟨decodeWord_encode (i := .drw x y n) rfl, t, h, fun r _ c _ => exec_drw_pixel h r c, ?_, exec_drw_VF_eq_one_iff h, ?_⟩
  · obtain ⟨f, hf⟩ := exec_reg_VF_flag h (.inr ⟨x, y, n, rfl⟩)
    exact hf ▸ flagByte_cases f
  · cases h
    exact ⟨rfl, rfl, frame_setScreen_setReg s _ _ _⟩

/-! ### Two equal draws -/

/-- A draw changes no register but VF. -/
theorem exec_drw_reg (h : exec (.drw x y n) s = .next t) {r : Nibble} (hr : r ≠ VF) : t.reg r = s.reg r := by
  cases h
  exact State.reg_setReg_of_ne _ hr _

/-- A draw inverts the pixel that a 1 bit of the sprite lands on. -/
theorem exec_drw_pixel_of_bit (h : exec (.drw x y n) s = .next t) {row bit : Nat} (hrow : row < n.toNat)
    (hbit : bit < 8) (hset : (s.readByte (s.I.toNat + row)).getLsbD (7 - bit) = true) :
    FrameBuffer.pixel t.fb ((s.reg y).toNat + row) ((s.reg x).toNat + bit) =
      !FrameBuffer.pixel s.fb ((s.reg y).toNat + row) ((s.reg x).toNat + bit) := by
  have hcovers := spriteCovers_hit (s.sprite n) (s.reg y).toNat (s.reg x).toNat row bit (s.length_sprite_le n)
    (by rwa [State.length_sprite]) hbit
  rw [exec_drw_pixel h, hcovers, State.getD_sprite hrow, hset, Bool.xor_true]

/-- Settles O9: the second draw XORs the same sprite bits at the same place, so each pixel is XORed twice with one bit; and
the pixel under a 1 bit is 1 before the second draw exactly when it was 0 before the first. -/
theorem doubleDrawRestoresScreen : Obligations.DoubleDrawRestoresScreen := by
  intro x y n s hx hy
  obtain ⟨t, h⟩ := exec_next s (.drw x y n)
  refine ⟨t, h, fun t' hfb hregx hregy hI hbytes => ?_⟩
  obtain ⟨u, hu⟩ := exec_next t' (.drw x y n)
  have ex : t'.reg x = s.reg x := hregx.trans (exec_drw_reg h hx)
  have ey : t'.reg y = s.reg y := hregy.trans (exec_drw_reg h hy)
  have ebyte : ∀ row < n.toNat, t'.readByte (t'.I.toNat + row) = s.readByte (s.I.toNat + row) := by
    cases h
    exact hbytes
  have esprite : t'.sprite n = s.sprite n := readBytes_congr n.toNat ebyte
  refine ⟨u, hu, FrameBuffer.ext_pixel fun r _ c _ => ?_, (exec_drw_VF_eq_one_iff hu).trans ?_⟩
  · rw [exec_drw_pixel hu, hfb, exec_drw_pixel h, esprite, ex, ey, Bool.xor_assoc, Bool.xor_self, Bool.xor_false]
  · rw [hfb, ex, ey]
    refine exists_congr fun row => and_congr_right fun hrow => exists_congr fun bit => and_congr_right fun hbit => ?_
    rw [ebyte row hrow]
    refine and_congr_right fun hset => ?_
    rw [exec_drw_pixel_of_bit h hrow hbit hset, Bool.not_eq_true']

/-! ### The clear screen, and who writes the frame buffer -/

/-- Settles O7: the screen written is the clear one, whose every pixel is 0. -/
theorem clearScreen : Obligations.ClearScreen :=
  ⟨rfl, fun s => ⟨_, rfl, fun r _ c _ => FrameBuffer.pixel_clear r c, rfl, rfl, frame_setScreen s _⟩⟩

/-- Settles O10: of the four kinds of step only one that executes an instruction without a fault can write the frame buffer,
and then the instruction's frame names the screen; a load stores bytes and nothing else, and reset clears the screen. -/
theorem onlyDisplayInstructionsWriteScreen : Obligations.OnlyDisplayInstructionsWriteScreen := by
  intro s
  refine ⟨?_, fun image t h => ?_, fun r _ c _ => FrameBuffer.pixel_clear r c⟩
  · obtain ⟨-, e⟩ | ⟨r, -, -, e⟩ | ⟨-, -, e⟩ | ⟨u, hs, -, -, -, hframe, e⟩ := step_kinds s
    · exact ⟨_, e, .inl rfl⟩
    · rw [State.resolveWait_eq] at e
      exact ⟨_, e, .inl rfl⟩
    · exact ⟨_, e, .inl rfl⟩
    · obtain ⟨-, -, -, -, -, -, hscreen, -⟩ := hframe
      exact ⟨_, e, (changesOf_screen s.nextInstr _).imp (fun hno => (hscreen hno).1) fun hdisplay => ⟨hs, hdisplay⟩⟩
  · unfold loadImage at h
    split at h <;> cases h
    exact s.writeBytes_fb _ _

end Sys2Proof.Machine
end

section
/-! PROOFS of the family 42_control: the jumps, what a call that finds a free slot and a return that finds a slot in use
leave, and the return after a call. -/

namespace Sys2Proof.Machine

variable {s t u : State} {nnn : Addr} {j : Fin 16}

/-! ### The jumps -/

/-- Settles O12: the decoder gives back what the encoding of 1nnn holds, and the meaning is a write of pc. -/
theorem jumpSetsPc : Obligations.JumpSetsPc :=
  fun nnn s => ⟨decodeWord_encode (i := .jp nnn) rfl, _, rfl, rfl, frame_setPc s {} nnn⟩

/-- Settles O14: as for 1nnn, with the reduction of the sum by `wrap12`. -/
theorem jumpWithOffset : Obligations.JumpWithOffset :=
  fun nnn s => ⟨decodeWord_encode (i := .jpV0 nnn) rfl, _, rfl, wrap12_toNat _, frame_setPc s {} _⟩

/-! ### The call and the return -/

/-- A call with j slots in use, j below 16, writes its return address to slot j and enters at nnn. -/
theorem exec_call_of_sp_eq (hj : s.sp.val = j.val) (h : exec (.call nnn) s = .next t) :
    t.slot j = (wrap12 (s.pc.toNat + 2)).setWidth 16 ∧ (∀ k : Fin 16, k ≠ j → t.slot k = s.slot k) ∧
      t.sp.val = j.val + 1 ∧ t.pc = nnn ∧ Frame { stack := true } s t := by
  cases h
  have hfree : s.sp.val ≠ 16 := hj ▸ j.isLt.ne
  obtain ⟨-, -, hpc, hsp, hslot, -⟩ | ⟨h16, -⟩ := s.pushAndGo_cases (wrap12 (s.pc.toNat + 2)) nnn
  · refine ⟨(hslot j).trans (if_pos hj.symm), fun k hk => (hslot k).trans (if_neg fun e => ?_), hj ▸ hsp, hpc,
      frame_pushAndGo s _ nnn hfree⟩
    exact hk (Fin.ext (e.trans hj))
  · exact absurd h16 hfree

/-- A return with j + 1 slots in use takes pc from slot j and leaves every slot as it is. -/
theorem exec_ret_of_sp_eq (hj : s.sp.val = j.val + 1) (h : exec .ret s = .next t) :
    t.sp.val = j.val ∧ t.pc = wrap12 (s.slot j).toNat ∧ t.stack = s.stack ∧ Frame { stack := true } s t := by
  cases h
  have hused : s.sp.val ≠ 0 := hj ▸ Nat.succ_ne_zero j.val
  obtain ⟨k, hk, e⟩ | ⟨h0, -⟩ := s.popAndGo_cases
  · obtain rfl : k = j := Fin.ext (Nat.succ_injective (hk.symm.trans hj))
    exact ⟨by rw [e], by rw [e], s.popAndGo_stack, frame_popAndGo s hused⟩
  · exact absurd h0 hused

/-- With all 16 slots in use a call only raises STACK_OVERFLOW. -/
theorem exec_call_of_full (h16 : s.sp.val = 16) : exec (.call nnn) s = .next (s.raiseFault .stackOverflow) := by
  obtain ⟨hlt, -⟩ | ⟨-, e⟩ := s.pushAndGo_cases (wrap12 (s.pc.toNat + 2)) nnn
  · omega
  · exact congrArg Host.Outcome.next e

/-- With no slot in use a return only raises STACK_UNDERFLOW. -/
theorem exec_ret_of_empty (h0 : s.sp.val = 0) : exec .ret s = .next (s.raiseFault .stackUnderflow) := by
  obtain ⟨j, hj, -⟩ | ⟨-, e⟩ := s.popAndGo_cases
  · omega
  · exact congrArg Host.Outcome.next e

/-- Settles O11: the pop by `exec_ret_of_sp_eq`, the underflow by `exec_ret_of_empty`. -/
theorem returnPopsOrUnderflows : Obligations.ReturnPopsOrUnderflows :=
  ⟨rfl, fun _ => ⟨fun _ hj => ⟨_, rfl, exec_ret_of_sp_eq hj rfl⟩, exec_ret_of_empty⟩⟩

/-- A 12-bit address in a 16-bit slot keeps its value. -/
theorem toNat_setWidth_addr (a : Addr) : (a.setWidth 16).toNat = a.toNat :=
  BitVec.toNat_setWidth_of_le (by decide)

/-- Settles O13: the push by `exec_call_of_sp_eq`, the overflow by `exec_call_of_full`. -/
theorem callPushesOrOverflows : Obligations.CallPushesOrOverflows := by
  refine fun nnn s => ⟨decodeWord_encode (i := .call nnn) rfl, fun j hj => ?_, exec_call_of_full⟩
  obtain ⟨hslot, hrest⟩ := exec_call_of_sp_eq (nnn := nnn) hj rfl
  refine ⟨_, rfl, ?_, hrest⟩
  rw [hslot, toNat_setWidth_addr, wrap12_toNat]

/-! ### The return after a call -/

/-- Two moves with the same frame, one after the other, have that frame together. -/
theorem Frame.trans {c : Changes} (hst : Frame c s t) (htu : Frame c t u) : Frame c s u := by
  obtain ⟨hreg, hbyte, hI, hstack, hDT, hST, hscreen, hmode, hports⟩ := hst
  obtain ⟨hreg', hbyte', hI', hstack', hDT', hST', hscreen', hmode', hports'⟩ := htu
  refine ⟨fun r hr => (hreg' r hr).trans (hreg r hr), fun a ha => (hbyte' a ha).trans (hbyte a ha),
    fun h => (hI' h).trans (hI h), fun h => ?_, fun h => (hDT' h).trans (hDT h), fun h => (hST' h).trans (hST h),
    fun h => ?_, fun h => (hmode' h).trans (hmode h), ?_⟩
  · simp only [hstack' h, hstack h, and_self]
  · simp only [hscreen' h, hscreen h, and_self]
  · simp only [hports', hports, and_self]

/-- A pop of an address that a push stored gives that address. -/
theorem wrap12_toNat_setWidth (a : Addr) : wrap12 (a.setWidth 16).toNat = a := by
  rw [toNat_setWidth_addr, wrap12, BitVec.ofNat_toNat, BitVec.setWidth_eq]

/-- Settles O15: the call leaves its return address in the slot the return pops, and the return leaves the slots alone. -/
theorem callThenReturn : Obligations.CallThenReturn := by
  intro nnn s hlt
  obtain ⟨t, ht⟩ := exec_next s (.call nnn)
  obtain ⟨u, hu⟩ := exec_next t .ret
  obtain ⟨hslot, hothers, hsp, -, hcall⟩ := exec_call_of_sp_eq (j := ⟨s.sp.val, hlt⟩) rfl ht
  obtain ⟨hsp', hpc, hstack, hret⟩ := exec_ret_of_sp_eq hsp hu
  refine ⟨t, u, ht, hu, ?_, Fin.ext hsp', fun k hk => ?_, hcall.trans hret⟩
  · rw [hpc, hslot, wrap12_toNat_setWidth]
  · have hkept : u.slot k = t.slot k := by rw [State.slot, hstack, State.slot]
    exact hkept.trans (hothers k fun e => hk (congrArg Fin.val e))

end Sys2Proof.Machine
end

section
/-! PROOFS of the family 43_skip: the skip mechanism for any condition, and the four register skips as uses of it. -/

namespace Sys2Proof.Machine

variable {s : State} {i : Instr} {c : Bool} {p : Prop} [Decidable p]

/-- An instruction whose meaning is the skip mechanism on the test of a condition takes pc to pc + 4 where the condition
holds and to pc + 2 where not, and changes nothing else (R95). -/
theorem exec_of_skipIf (hi : exec i s = .next (s.skipIf c)) (hc : c = true ↔ p) :
    ∃ t, exec i s = .next t ∧
      t.pc = (if p then wrap12 (s.pc.toNat + 4) else wrap12 (s.pc.toNat + 2)) ∧ Frame {} s t := by
  refine ⟨_, hi, ?_, ?_⟩ <;> rw [State.skipIf_eq]
  · exact if_congr hc rfl rfl
  · exact frame_setPc s {} _

/-- Settles O16: the tests of the two meanings are the two conditions. -/
theorem skipOnImmediate : Obligations.SkipOnImmediate :=
  fun x kk _ => ⟨decodeWord_encode (i := .seImm x kk) rfl, decodeWord_encode (i := .sneImm x kk) rfl,
    exec_of_skipIf rfl beq_iff_eq, exec_of_skipIf rfl bne_iff_ne⟩

/-- Where the low nibble must be 0, the joined word is the instruction exactly when its n is 0 (R64). -/
theorem decodeLowNibble0_joinXYN (op x y n : Nibble) (i : Instr) :
    decodeLowNibble0 (joinXYN op x y n) i = if n = 0#4 then i else .unknown (joinXYN op x y n) := by
  rw [decodeLowNibble0, fieldN_joinXYN]

/-- Settles O17: the classes 0x5 and 0x9 decode by their low nibble (D10), and the skips are as for the immediate ones. -/
theorem skipOnRegisters : Obligations.SkipOnRegisters := by
  refine fun x y s => ⟨fun n => ?_, fun n => ?_, exec_of_skipIf rfl beq_iff_eq, exec_of_skipIf rfl bne_iff_ne⟩
  all_goals simp [decodeWord, decodeLowNibble0_joinXYN]

end Sys2Proof.Machine
end

section
/-! PROOFS of the family 44_alu: the register writes and the writes of a flag and then a register, each for any value, the
register loads and ALU instructions as uses of them, and the table of VF aliasing from their rules. -/

namespace Sys2Proof.Machine

variable {s : State} {i : Instr} {x : Nibble} {f : Bool} {v w : Byte}

/-! ### Instructions that write one register -/

/-- An instruction whose meaning is a register write and the advance leaves in that register what is known of the value
written, and changes nothing else but pc. -/
theorem exec_of_setReg (P : Byte → Prop) (hi : exec i s = .next (s.setReg x v).advance) (hv : P v) :
    ∃ t, exec i s = .next t ∧ P (t.reg x) ∧ t.pc = wrap12 (s.pc.toNat + 2) ∧ Frame { regs := [x] } s t := by
  refine ⟨_, hi, ?_, rfl, frame_setReg s x v⟩
  rwa [State.advance_eq, State.reg_setPc, State.reg_setReg_same]

/-- Settles O18: the values written are kk and V[y]. -/
theorem loadRegister : Obligations.LoadRegister :=
  fun x y kk s => ⟨decodeWord_encode (i := .ldImm x kk) rfl, decodeWord_encode (i := .ldReg x y) rfl,
    exec_of_setReg (· = kk) rfl rfl, exec_of_setReg (· = s.reg y) rfl rfl⟩

/-- Settles O19: the sum reduced modulo 256 is the sum of bytes. -/
theorem addImmediateWraps : Obligations.AddImmediateWraps :=
  fun x kk s => ⟨decodeWord_encode (i := .addImm x kk) rfl,
    exec_of_setReg (· = s.reg x + kk) rfl (wrap8_add (s.reg x) kk)⟩

/-- Settles O20: the three operations on bytes, bit by bit. -/
theorem bitwiseOperations : Obligations.BitwiseOperations :=
  fun x y s => ⟨decodeWord_encode (i := .orReg x y) rfl, decodeWord_encode (i := .andReg x y) rfl,
    decodeWord_encode (i := .xorReg x y) rfl,
    exec_of_setReg (fun r => ∀ b < 8, r.getLsbD b = ((s.reg x).getLsbD b || (s.reg y).getLsbD b)) rfl
      fun _ _ => BitVec.getLsbD_or,
    exec_of_setReg (fun r => ∀ b < 8, r.getLsbD b = ((s.reg x).getLsbD b && (s.reg y).getLsbD b)) rfl
      fun _ _ => BitVec.getLsbD_and,
    exec_of_setReg (fun r => ∀ b < 8, r.getLsbD b = ((s.reg x).getLsbD b ^^ (s.reg y).getLsbD b)) rfl
      fun _ _ => BitVec.getLsbD_xor⟩

/-- Settles O26: the byte at the port is masked bit by bit, whatever it is (D8). -/
theorem randomAndMask : Obligations.RandomAndMask :=
  fun x kk s => ⟨decodeWord_encode (i := .rnd x kk) rfl,
    exec_of_setReg (fun r => ∀ b < 8, r.getLsbD b = (s.randByte.getLsbD b && kk.getLsbD b)) rfl
      fun _ _ => BitVec.getLsbD_and⟩

/-! ### Instructions that write a flag and then a register -/

/-- An instruction whose meaning is a flag write, a register write and the advance leaves the value in the register, and,
where that is not VF, in VF what is known of the flag; it changes nothing else but pc (R113). -/
theorem exec_of_setFlagThenReg (P : Byte → Prop) (hi : exec i s = .next (s.setFlagThenReg x f v).advance)
    (hv : v = w) (hf : P (flagByte f)) :
    ∃ t, exec i s = .next t ∧ t.reg x = w ∧ (x ≠ VF → P (t.reg VF)) ∧ t.pc = wrap12 (s.pc.toNat + 2) ∧
      Frame { regs := [x, VF] } s t := by
  refine ⟨_, hi, ?_, fun hx => ?_, rfl, frame_setFlagThenReg s x f v⟩
  · rw [State.advance_eq, State.reg_setPc, State.setFlagThenReg_eq, State.reg_setReg_same, hv]
  · rwa [reg_VF_setFlagThenReg s hx]

/-- Settles O21: the sum of bytes, and the carry of the latched operands. -/
theorem addWithCarry : Obligations.AddWithCarry :=
  fun x y _ => ⟨decodeWord_encode (i := .addReg x y) rfl,
    exec_of_setFlagThenReg (· = _) rfl (wrap8_add _ _) (flagByte_decide _)⟩

/-- Settles O22: the difference of bytes, and the comparison of the latched operands. -/
theorem subtractSetsStrictGreater : Obligations.SubtractSetsStrictGreater :=
  fun x y _ => ⟨decodeWord_encode (i := .sub x y) rfl,
    exec_of_setFlagThenReg (· = _) rfl (wrap8_sub _ _) (flagByte_decide _)⟩

/-- Settles O24: as for 8xy5, with the operands reversed. -/
theorem subtractReversed : Obligations.SubtractReversed :=
  fun x y _ => ⟨decodeWord_encode (i := .subn x y) rfl,
    exec_of_setFlagThenReg (· = _) rfl (wrap8_sub _ _) (flagByte_decide _)⟩

theorem toNat_flagByte (f : Bool) : (flagByte f).toNat = f.toNat := by
  cases f <;> rfl

/-- Bit 0 of a byte as a flag (R108). -/
theorem toNat_flagByte_lowBit (a : Byte) : (flagByte (lowBit a)).toNat = a.toNat % 2 := by
  rw [toNat_flagByte, lowBit, BitVec.getLsbD, Nat.toNat_testBit, pow_zero, Nat.div_one]

/-- Bit 7 of a byte as a flag (R110). -/
theorem toNat_flagByte_highBit (a : Byte) : (flagByte (highBit a)).toNat = a.toNat / 128 := by
  have hlt : a.toNat < 256 := a.isLt
  rw [toNat_flagByte, highBit, BitVec.getLsbD, Nat.toNat_testBit]
  omega

/-- Settles O23: half the byte is its right shift and bit 0 the remainder; the meaning of 8xy6 takes no y (D30). -/
theorem shiftRight : Obligations.ShiftRight :=
  fun x y _ => ⟨decodeWord_encode (i := .shr x y) rfl,
    exec_of_setFlagThenReg (BitVec.toNat · = _) rfl (wrap8_half _) (toNat_flagByte_lowBit _)⟩

/-- Settles O25: twice the byte is its left shift and bit 7 what exceeds it; the meaning of 8xyE takes no y (D30). -/
theorem shiftLeft : Obligations.ShiftLeft :=
  fun x y _ => ⟨decodeWord_encode (i := .shl x y) rfl,
    exec_of_setFlagThenReg (BitVec.toNat · = _) rfl (wrap8_double _) (toNat_flagByte_highBit _)⟩

/-! ### The table of VF aliasing -/

theorem toNat_ushiftRight_one (a : Byte) : (a >>> 1).toNat = a.toNat / 2 := by
  rw [BitVec.toNat_ushiftRight, Nat.shiftRight_one]

theorem toNat_shiftLeft_one (a : Byte) : (a <<< 1).toNat = 2 * a.toNat % 256 := by
  rw [BitVec.toNat_shiftLeft, Nat.shiftLeft_eq, pow_one, Nat.mul_comm]

/-- Settles O27: each cell is a case of its instruction's rule, with x = 0xF the clause on V[x], which holds for every x,
and with y = 0xF and another x that clause and the one on VF. -/
theorem flagAliasing : Obligations.FlagAliasing := by
  intro y s
  refine ⟨?add, ?sub, ?shr, ?subn, ?shl, ?subSelf, ?subnSelf, fun hy => ⟨?addVF, ?subVF, ?subnVF, ?shrVF, ?shlVF⟩⟩
  case add => exact (addWithCarry VF y s).2.imp fun _ ⟨h, hx, _⟩ => ⟨h, hx⟩
  case sub => exact (subtractSetsStrictGreater VF y s).2.imp fun _ ⟨h, hx, _⟩ => ⟨h, hx⟩
  case shr => exact (shiftRight VF y s).2.imp fun _ ⟨h, hx, _⟩ => ⟨h, hx ▸ toNat_ushiftRight_one _⟩
  case subn => exact (subtractReversed VF y s).2.imp fun _ ⟨h, hx, _⟩ => ⟨h, hx⟩
  case shl => exact (shiftLeft VF y s).2.imp fun _ ⟨h, hx, _⟩ => ⟨h, hx ▸ toNat_shiftLeft_one _⟩
  case subSelf =>
    exact (subtractSetsStrictGreater VF VF s).2.imp fun _ ⟨h, hx, _⟩ => ⟨h, hx.trans (BitVec.sub_self _)⟩
  case subnSelf => exact (subtractReversed VF VF s).2.imp fun _ ⟨h, hx, _⟩ => ⟨h, hx.trans (BitVec.sub_self _)⟩
  case addVF => exact (addWithCarry y VF s).2.imp fun _ ⟨h, hx, hf, _⟩ => ⟨h, hx, hf hy⟩
  case subVF => exact (subtractSetsStrictGreater y VF s).2.imp fun _ ⟨h, hx, hf, _⟩ => ⟨h, hx, hf hy⟩
  case subnVF => exact (subtractReversed y VF s).2.imp fun _ ⟨h, hx, hf, _⟩ => ⟨h, hx, hf hy⟩
  case shrVF => exact (shiftRight y VF s).2.imp fun _ ⟨h, hx, hf, _⟩ => ⟨h, hx ▸ toNat_ushiftRight_one _, hf hy⟩
  case shlVF => exact (shiftLeft y VF s).2.imp fun _ ⟨h, hx, hf, _⟩ => ⟨h, hx ▸ toNat_shiftLeft_one _, hf hy⟩

end Sys2Proof.Machine
end

section
/-! PROOFS of the family 45_index_memory: the writes of I, each for any value, the block stores and their bytes, and the
block load, the six instructions as uses of them. -/

namespace Sys2Proof.Machine

variable {s t : State} {i : Instr}

/-! ### Instructions that write I -/

/-- An instruction whose meaning is a write of I and the advance leaves the value in I and changes nothing else but pc. -/
theorem exec_of_setI {v : Word} {n : Nat} (hi : exec i s = .next (s.setI v).advance) (hv : v.toNat = n) :
    ∃ t, exec i s = .next t ∧ t.I.toNat = n ∧ t.pc = wrap12 (s.pc.toNat + 2) ∧ Frame { I := true } s t :=
  ⟨_, hi, hv, rfl, frame_setI s v⟩

theorem toNat_wrap16 (n : Nat) : (wrap16 n).toNat = n % 65536 :=
  BitVec.toNat_ofNat n 16

/-- The largest glyph address, 5 * 255, is within 16 bits, so no reduction shows (R117, D27). -/
theorem toNat_glyphAddr (s : State) (x : Nibble) : (s.glyphAddr x).toNat = 5 * (s.reg x).toNat := by
  have hlt : (s.reg x).toNat < 256 := (s.reg x).isLt
  rw [State.glyphAddr, toNat_wrap16]
  omega

/-- Settles O28: the zero extension of nnn keeps its value. -/
theorem loadIndex : Obligations.LoadIndex :=
  fun nnn _ => ⟨decodeWord_encode (i := .ldI nnn) rfl, exec_of_setI rfl (toNat_setWidth_addr nnn)⟩

/-- Settles O29: the reduction of the sum is by `wrap16`. -/
theorem addToIndex : Obligations.AddToIndex :=
  fun x _ => ⟨decodeWord_encode (i := .addI x) rfl, exec_of_setI rfl (toNat_wrap16 _)⟩

/-- Settles O30: the address of the glyph, for every value of V[x]. -/
theorem pointAtGlyph : Obligations.PointAtGlyph :=
  fun x s => ⟨decodeWord_encode (i := .ldF x) rfl, exec_of_setI rfl (toNat_glyphAddr s x)⟩

/-! ### Instructions that store or load a block -/

/-- An instruction that raises no fault keeps to what `changesOf` names. -/
theorem exec_frame (h : exec i s = .next t) (hf : faultOf i s = .none) : Frame (changesOf i s) s t := by
  obtain ⟨-, hframe⟩ | ⟨hfault, -⟩ := exec_cases h
  · exact hframe
  · exact absurd hf hfault

/-- Each byte of a block store reads back after the advance, if the block does not overlap itself. -/
theorem readByte_writeBytes_advance (s : State) (a : Nat) {bs : List Byte} (hlen : bs.length ≤ 4096) {j : Nat}
    (hj : j < bs.length) : (s.writeBytes a bs).advance.readByte (a + j) = bs[j] := by
  rw [State.advance_eq, State.readByte_setPc, State.readByte_writeBytes bs s a j hj hlen]

theorem toNat_wrap8_of_lt {n : Nat} (h : n < 256) : (wrap8 n).toNat = n := by
  rw [wrap8, BitVec.toNat_ofNat, Nat.mod_eq_of_lt h]

/-- Settles O31: the three bytes stored are the digits of `bcd`, each within a byte. -/
theorem storeBcd : Obligations.StoreBcd := by
  intro x s
  have hlt : (s.reg x).toNat < 256 := (s.reg x).isLt
  have hlen : (bcd (s.reg x)).length = 3 := rfl
  have hdigit {j n : Nat} (hj : j < 3) (hn : n < 256) (h : (bcd (s.reg x))[j] = wrap8 n) :
      ((s.writeBytes s.I.toNat (bcd (s.reg x))).advance.readByte (s.I.toNat + j)).toNat = n := by
    rw [readByte_writeBytes_advance s s.I.toNat (by omega) hj, h, toNat_wrap8_of_lt hn]
  refine ⟨decodeWord_encode (i := .ldB x) rfl, _, rfl, ?hundreds, ?tens, ?ones, exec_pc (i := .ldB x) rfl rfl,
    exec_frame (i := .ldB x) rfl rfl⟩
  case hundreds => exact hdigit (j := 0) (by decide) (by omega) rfl
  case tens => exact hdigit (j := 1) (by decide) (by omega) rfl
  case ones => exact hdigit (j := 2) (by decide) (by omega) rfl

/-- Settles O32: the block stored is V[0] to V[x], at most 16 bytes, so it does not overlap itself round the end of
memory (D2). -/
theorem storeRegisters : Obligations.StoreRegisters := by
  intro x s
  refine ⟨decodeWord_encode (i := .ldMemVx x) rfl, _, rfl, fun j hj => ?_, exec_pc (i := .ldMemVx x) rfl rfl,
    exec_frame (i := .ldMemVx x) rfl rfl⟩
  have hlen : (s.regsUpTo x).length = x.toNat + 1 := s.length_regsUpTo x
  have hx : x.toNat < 16 := x.isLt
  have hj : j.toNat < (s.regsUpTo x).length := by
    rw [BitVec.le_def] at hj
    omega
  rw [readByte_writeBytes_advance s s.I.toNat (by omega) hj, State.getElem_regsUpTo]

/-- Settles O33: the block load reads a register up to x from memory and leaves one above x. -/
theorem loadRegisters : Obligations.LoadRegisters := by
  intro x s
  refine ⟨decodeWord_encode (i := .ldVxMem x) rfl, _, rfl, fun j hj => ?_, fun j hj => ?_, rfl, frame_loadRegs s _ x⟩
  · rw [State.advance_eq, State.reg_setPc, State.reg_loadRegs, if_pos (BitVec.le_def.1 hj)]
  · rw [State.advance_eq, State.reg_setPc, State.reg_loadRegs, if_neg (Nat.not_le.2 (BitVec.lt_def.1 hj))]

end Sys2Proof.Machine
end

section
/-! PROOFS of the family 46_keys_timers: the key skips as uses of the skip mechanism on a held key or as the fault entry, and
the timer instructions with what a step that raises no fault ends with. -/

namespace Sys2Proof.Machine

variable {s u : State} {i : Instr} {x : Nibble} {k : Fin 16}

/-! ### The key skips -/

/-- An instruction that meets a condition of R129 only raises its fault (R131). -/
theorem exec_of_faultOf {c : FaultCode} (hf : faultOf i s = c) (hc : c ≠ .none) :
    exec i s = .next (s.raiseFault c) := by
  subst hf
  obtain ⟨t, ht⟩ := exec_next s i
  obtain ⟨hnone, -⟩ | ⟨-, rfl⟩ := exec_cases ht
  · exact absurd hnone hc
  · exact ht

theorem State.keyIndexValid_of_toNat_eq (hk : (s.reg x).toNat = k.val) : s.keyIndexValid x = true :=
  decide_eq_true (hk ▸ Nat.le_of_lt_succ k.isLt)

theorem State.keyHeld_of_toNat_eq (hk : (s.reg x).toNat = k.val) : s.keyHeld x = s.keyState[k] := by
  simp [State.keyHeld, hk]

/-- With the key index k in V[x], Ex9E is the skip mechanism on key k held (R122). -/
theorem exec_skp_of_toNat_eq (hk : (s.reg x).toNat = k.val) : exec (.skp x) s = .next (s.skipIf s.keyState[k]) := by
  rw [exec, execSkp, if_pos (State.keyIndexValid_of_toNat_eq hk), State.keyHeld_of_toNat_eq hk]

/-- With the key index k in V[x], ExA1 is the skip mechanism on key k not held (R123). -/
theorem exec_sknp_of_toNat_eq (hk : (s.reg x).toNat = k.val) :
    exec (.sknp x) s = .next (s.skipIf !s.keyState[k]) := by
  rw [exec, execSknp, if_pos (State.keyIndexValid_of_toNat_eq hk), State.keyHeld_of_toNat_eq hk]

/-- Settles O34: with a key index in V[x] both are skips on that key, and else the condition of R129 for both is met (D7). -/
theorem skipOnKey : Obligations.SkipOnKey :=
  fun x _ => ⟨decodeWord_encode (i := .skp x) rfl, decodeWord_encode (i := .sknp x) rfl,
    fun _ hk => ⟨exec_of_skipIf (exec_skp_of_toNat_eq hk) Iff.rfl,
      exec_of_skipIf (exec_sknp_of_toNat_eq hk) (by rw [Bool.not_eq_true'])⟩,
    fun hx => ⟨exec_of_faultOf (i := .skp x) (if_pos hx) (by decide),
      exec_of_faultOf (i := .sknp x) (if_pos hx) (by decide)⟩⟩

/-! ### The timers and the key wait -/

/-- A step whose instruction answers an unfaulted state ends in that state, given back at the ports (R71). -/
theorem step_of_exec_unfaulted (hs : s.Executes) (hi : s.nextInstr = i) (hu : exec i s.activate.prepare = .next u)
    (hf : u.fault = .none) : step s = .next (u.giveBack u.redrawPending) := by
  subst hi
  rw [step_of_exec s hs hu, State.commit_of_none _ hf]

/-- Settles O35: the value read is DT of the state executed on, which in a step is DT ticked (R75). -/
theorem readDelayTimer : Obligations.ReadDelayTimer := by
  refine fun x s => ⟨decodeWord_encode (i := .ldVxDT x) rfl, exec_of_setReg (· = s.DT) rfl rfl, fun hs hi => ?_⟩
  refine ⟨_, step_of_exec_unfaulted hs hi rfl hs.1, ?_, toNat_tick s.DT⟩
  rw [State.reg_giveBack, State.advance_eq, State.reg_setPc, State.reg_setReg_same]
  exact toNat_tick s.DT

/-- Settles O36: the meaning is a write of the mode and the advance, and looks at no key (D19). -/
theorem enterKeyWait : Obligations.EnterKeyWait :=
  fun x s => ⟨decodeWord_encode (i := .ldVxK x) rfl, _, rfl, rfl, rfl, frame_setMode s _⟩

/-- Settles O37: the write of the timer comes after the tick, and the end of the cycle leaves it (R75). -/
theorem setTimers : Obligations.SetTimers :=
  fun x s => ⟨decodeWord_encode (i := .ldDTVx x) rfl, decodeWord_encode (i := .ldSTVx x) rfl,
    ⟨_, rfl, rfl, rfl, frame_setDT s _⟩, ⟨_, rfl, rfl, rfl, frame_setST s _⟩,
    fun hs hi => ⟨_, step_of_exec_unfaulted hs hi rfl hs.1, rfl⟩,
    fun hs hi => ⟨_, step_of_exec_unfaulted hs hi rfl hs.1, rfl⟩⟩

end Sys2Proof.Machine
end

section
/-! PROOFS of the family 60_exceptions: the fault that each instruction raises, the step that meets a condition of R129, and
the timers over every kind of step. -/

namespace Sys2Proof.Machine

variable {s t : State} {i : Instr} {x : Nibble}

/-! ### The three fault conditions -/

/-- From a state with no fault latched, the fault an instruction leaves is that of the table of R129. -/
theorem exec_fault (h : exec i s = .next t) (hs : s.fault = .none) : t.fault = faultOf i s := by
  obtain ⟨hnone, -, -, -, -, -, -, -, -, -, hfault, -⟩ | ⟨-, rfl⟩ := exec_cases h
  · rw [hfault, hs, hnone]
  · rfl

/-- Settles O42: without a condition of R129 the frame keeps the fault register, and with one only its code is raised. -/
theorem faultsOnExactlyThreeConditions : Obligations.FaultsOnExactlyThreeConditions := by
  intro i s hs
  obtain ⟨t, ht⟩ := exec_next s i
  exact ⟨t, ht, exec_fault ht hs⟩

/-! ### The fault entry -/

/-- A step whose instruction meets a condition of R129 is the fault entry on the state before the cycle (R131). -/
theorem step_of_faultOf (hs : s.Executes) (hf : faultOf s.nextInstr s ≠ .none) :
    step s = .next ((s.activate.raiseFault (faultOf s.nextInstr s)).giveBack false) := by
  have hu := exec_of_faultOf (faultOf_prepare_activate s.nextInstr s) hf
  rw [step_of_exec s hs hu, State.commit_of_fault _ hf, State.raiseFault_fault]

/-- Settles O47: the fault entry writes redraw_pending and the code, and the activation before it only the ports. -/
theorem faultEntryDiscardsCycle : Obligations.FaultEntryDiscardsCycle :=
  fun _ hs hf => ⟨_, step_of_faultOf hs hf, rfl, rfl, rfl, rfl, rfl, rfl, rfl, rfl, rfl, rfl, rfl, rfl, rfl, rfl, rfl⟩

/-! ### The timers -/

/-- Only Fx15 writes DT (R140). -/
theorem exec_DT (h : exec i s = .next t) (hi : ∀ x, i ≠ .ldDTVx x) : t.DT = s.DT := by
  obtain ⟨-, -, -, -, -, hDT, -⟩ | ⟨-, rfl⟩ := exec_cases h
  · exact hDT ((changesOf_DT i s).resolve_right fun ⟨x, hx⟩ => hi x hx)
  · rfl

/-- Only Fx18 writes ST (R140). -/
theorem exec_ST (h : exec i s = .next t) (hi : ∀ x, i ≠ .ldSTVx x) : t.ST = s.ST := by
  obtain ⟨-, -, -, -, -, -, hST, -⟩ | ⟨-, rfl⟩ := exec_cases h
  · exact hST ((changesOf_ST i s).resolve_right fun ⟨x, hx⟩ => hi x hx)
  · rfl

/-- Fx07 leaves in V[x] the DT it began with (R124). -/
theorem exec_ldVxDT_reg (h : exec i s = .next t) (hi : i = .ldVxDT x) : t.reg x = s.DT := by
  subst hi
  cases h
  rw [State.advance_eq, State.reg_setPc, State.reg_setReg_same]

/-- Fx15 leaves V[x] in DT (R126). -/
theorem exec_ldDTVx_DT (h : exec i s = .next t) (hi : i = .ldDTVx x) : t.DT = s.reg x := by
  subst hi
  cases h
  rfl

/-- Fx18 leaves V[x] in ST (R127). -/
theorem exec_ldSTVx_ST (h : exec i s = .next t) (hi : i = .ldSTVx x) : t.ST = s.reg x := by
  subst hi
  cases h
  rfl

/-- The instruction reads the registers as the cycle began with them (R71). -/
theorem State.reg_prepare_activate (s : State) (x : Nibble) : s.activate.prepare.reg x = s.reg x := rfl

/-- The instruction begins with DT ticked (R75, R139). -/
theorem State.toNat_DT_prepare_activate (s : State) : s.activate.prepare.DT.toNat = s.DT.toNat - 1 := toNat_tick s.DT

/-- The instruction begins with ST ticked (R75, R139). -/
theorem State.toNat_ST_prepare_activate (s : State) : s.activate.prepare.ST.toNat = s.ST.toNat - 1 := toNat_tick s.ST

/-- Settles O43: only a Running cycle that does not fault keeps its tick, and its instruction begins with both timers
ticked (R75). -/
theorem timersTickPerCycle : Obligations.TimersTickPerCycle := by
  intro s
  obtain ⟨hf, e⟩ | ⟨r, -, hm, e⟩ | ⟨hs, hfault, e⟩ | ⟨u, hs, -, hu, hnone, -, e⟩ := step_kinds s
  · have hn := not_executes_of_fault hf
    exact ⟨_, e, fun _ => ⟨rfl, rfl⟩, fun hs => absurd hs hn, fun hs => absurd hs hn⟩
  · have hn := not_executes_of_waiting hm
    rw [State.resolveWait_eq] at e
    exact ⟨_, e, fun _ => ⟨rfl, rfl⟩, fun hs => absurd hs hn, fun hs => absurd hs hn⟩
  · exact ⟨_, e, fun hn => absurd hs hn, fun _ _ => ⟨rfl, rfl⟩, fun _ hnone => absurd hnone hfault⟩
  · refine ⟨_, e, fun hn => absurd hs hn, fun _ hsome => absurd hnone hsome, fun _ _ => ⟨?_, ?_, ?_, ?_, ?_⟩⟩
    · exact fun hi => (congrArg BitVec.toNat (exec_DT hu hi)).trans s.toNat_DT_prepare_activate
    · exact fun hi => (congrArg BitVec.toNat (exec_ST hu hi)).trans s.toNat_ST_prepare_activate
    · intro x hi
      rw [State.reg_giveBack, exec_ldVxDT_reg hu hi, s.toNat_DT_prepare_activate]
    · exact fun x hi => (exec_ldDTVx_DT hu hi).trans (s.reg_prepare_activate x)
    · exact fun x hi => (exec_ldSTVx_ST hu hi).trans (s.reg_prepare_activate x)

end Sys2Proof.Machine
end

section
/-! PROOFS of the family 70_reset_and_hazards: the step of a self-jump and the run of such steps, and the load of an image
as a store of its first 3584 bytes. -/

namespace Sys2Proof.Machine

variable {s t : State} {image : List Byte}

/-! ### The self-jump -/

/-- The state after one step of a self-jump: the cycle's preparation, and the jump back to pc (R91, R164). -/
def State.loopOnce (s : State) : State := (s.activate.prepare.setPc s.pc).giveBack false

theorem State.loopOnce_pc (s : State) : s.loopOnce.pc = s.pc := rfl

theorem State.loopOnce_memory (s : State) : s.loopOnce.memory = s.memory := rfl

theorem step_of_selfLoop (h : s.SelfLoop) : step s = .next s.loopOnce := by
  obtain ⟨hs, hi⟩ := h
  exact step_of_exec_unfaulted hs hi rfl hs.1

/-- A step of a self-jump leaves pc and memory, so the next cycle fetches the same jump. -/
theorem selfLoop_loopOnce (h : s.SelfLoop) : s.loopOnce.SelfLoop := by
  obtain ⟨hs, hi⟩ := h
  have hexec : s.loopOnce.Executes := hs
  refine ⟨hexec, ?_⟩
  rw [State.nextInstr_congr s.loopOnce_pc s.loopOnce_memory, hi, State.loopOnce_pc]

theorem State.toNat_DT_loopOnce (s : State) : s.loopOnce.DT.toNat = s.DT.toNat - 1 := s.toNat_DT_prepare_activate

theorem State.toNat_ST_loopOnce (s : State) : s.loopOnce.ST.toNat = s.ST.toNat - 1 := s.toNat_ST_prepare_activate

/-- A step of a self-jump writes only the timers, key_state and redraw_pending of the Machine State, so a state that agrees
with the one after the step in all else agrees with the one before it (R72, R73, R75). -/
theorem sameMachineState_of_loopOnce
    (h : SameMachineState
      { s.loopOnce with DT := t.DT, ST := t.ST, keyState := t.keyState, redrawPending := t.redrawPending } t) :
    SameMachineState { s with DT := t.DT, ST := t.ST, keyState := t.keyState, redrawPending := t.redrawPending } t := by
  simpa [SameMachineState, State.loopOnce] using h

/-- Settles O52, by induction on the number of steps: one step leaves a self-jump with each timer one down, and the other
steps start there. -/
theorem selfLoopRunsDownItsTimers : Obligations.SelfLoopRunsDownItsTimers := by
  intro n
  induction n with
  | zero => exact fun s h => ⟨s, rfl, h, rfl, rfl, by simp [SameMachineState]⟩
  | succ n ih =>
    intro s h
    obtain ⟨t, hrun, hloop, hDT, hST, hsame⟩ := ih s.loopOnce (selfLoop_loopOnce h)
    rw [run_succ n (step_of_selfLoop h)]
    refine ⟨t, hrun, hloop, ?_, ?_, sameMachineState_of_loopOnce hsame⟩
    · rw [hDT, State.toNat_DT_loopOnce]
      omega
    · rw [hST, State.toNat_ST_loopOnce]
      omega

/-! ### The load -/

theorem loadImage_of_not_started (h : s.started = false) :
    loadImage image s = .next (s.writeBytes 0x200 (image.take loadLimit)) := by
  simp [loadImage, h]

theorem loadImage_of_started (h : s.started = true) : loadImage image s = .refused .loadAfterFirstStep := by
  simp [loadImage, h]

theorem length_take_loadLimit_le (image : List Byte) : (image.take loadLimit).length ≤ 3584 :=
  List.length_take_le loadLimit image

/-- Each of the first 3584 bytes of the image stands at its place from 0x200 on (R153). -/
theorem State.readByte_load (s : State) {j : Nat} (h : j < image.length) (hj : j < 3584) :
    (s.writeBytes 0x200 (image.take loadLimit)).readByte (0x200 + j) = image[j] := by
  have hlen := length_take_loadLimit_le image
  have hlt : j < (image.take loadLimit).length := by
    rw [List.length_take]
    exact Nat.lt_min.2 ⟨hj, h⟩
  rw [State.readByte_writeBytes _ s 0x200 j hlt (by omega), List.getElem_take]

/-- A byte below 0x200 or past the image reads as before: the cut at 3584 bytes keeps the store from wrapping (R153). -/
theorem State.readByte_load_of_outside (s : State) {a : Nat} (ha : a < 4096)
    (hout : a < 0x200 ∨ 0x200 + image.length ≤ a) :
    (s.writeBytes 0x200 (image.take loadLimit)).readByte a = s.readByte a := by
  have hlimit := length_take_loadLimit_le image
  have hlen : (image.take loadLimit).length ≤ image.length := List.length_take_le' loadLimit image
  refine State.readByte_writeBytes_of_ne _ s 0x200 a fun j hj => ?_
  rw [Ne, wrap12_eq_iff]
  omega

theorem truncated_eq_true (image : List Byte) : truncated image = true ↔ image.length > 3584 :=
  decide_eq_true_iff

/-- Settles O58: before the first step a load is a store of the image cut at 3584 bytes, which ends at the end of memory at
the latest; after it the move is refused. -/
theorem loadCopiesImage : Obligations.LoadCopiesImage :=
  fun image s => ⟨fun h => ⟨_, loadImage_of_not_started h, fun _ hlen hj => s.readByte_load hlen hj,
      fun _ ha hout => s.readByte_load_of_outside ha hout, State.writeBytes_eq _ s 0x200⟩,
    loadImage_of_started, truncated_eq_true image⟩

end Sys2Proof.Machine
end
